-- ==== Sys2Proof/Word.lean ====
section
/-! DEFINITION. The word types: the byte of the wire formats and the 32-bit command or register word. -/

namespace Sys2Proof

/-- One byte of a frame; bit 7 is the first on the wire (R53). -/
abbrev Byte := BitVec 8

/-- A command word (R67) or a register read value (R22). -/
abbrev Word := BitVec 32

/-- A byte sequence, first byte first (R14). -/
abbrev Bytes := List Byte

end Sys2Proof
end

