-- ==== Sys2Proof/Config.lean ====
section
/-! DEFINITION. The parameters of the model and the constants of 00_scope.md section 3. -/

namespace Sys2Proof

/-- The part of the configuration that is a function. CRC16_FN is "a total function from a byte sequence to a
16-bit value", taken "as a configuration field" (R11). Its default is set in Machine/Crc.lean (log 6). -/
structure Config where
  crc16Fn : Bytes → BitVec 16

/-- FRAME_SIZE's default (R7). The parameter itself is the field `frameSize` of State (log 5). -/
abbrev Config.frameSizeDefault : Nat := 892

/-- The legal values of FRAME_SIZE (R7). -/
abbrev Config.FrameSizeLegal (n : Nat) : Prop := 8 ≤ n ∧ n ≤ 65535

/-- ZONE, the size of the packet zone (R8). -/
abbrev Config.zone (frameSize : Nat) : Nat := frameSize - 8

/-- PEND_CAP (R9). -/
abbrev Config.pendCap : Nat := 65536

/-- The value at which the 32-bit counters and PEND_RX saturate (R10, R17). -/
abbrev Config.cntMax : Nat := 4294967295

/-- APID_FILL, the reserved fill APID (R12, R84). -/
abbrev Config.apidFill : BitVec 11 := 2047#11

/-- FHP_NOHDR, "no packet header starts in this frame" (R12, R79). -/
abbrev Config.fhpNohdr : BitVec 11 := 2047#11

end Sys2Proof
end

