-- ==== Sys2Proof/Syntax.lean ====
section
/-! DEFINITION. What the host presents (Command), what an instruction is decoded from (Encoded), the instructions (Instr,
one constructor per row of opcode_table.json), and the records the wire formats decode to. -/

namespace Sys2Proof

/-- The fields of a transfer-frame header (R73, R74). -/
structure FrameHeader where
  version : BitVec 2
  scid : BitVec 6
  vcid : BitVec 6
  ctr : BitVec 24
deriving DecidableEq, Repr

/-- The fields of a packet primary header (R80, R81). -/
structure PacketHeader where
  ver : BitVec 3
  type : BitVec 1
  shf : BitVec 1
  apid : BitVec 11
  sf : BitVec 2
  cnt : BitVec 14
  lenField : BitVec 16
deriving DecidableEq, Repr

/-- The decode classes of a packet primary header (R85). -/
inductive PhClass where
  | fill | cont | first | last | standalone
deriving DecidableEq, Repr

/-- One transfer at the command port: a 32-bit command word and its data operand, which is empty but for FRAME (R67,
R68). A host presents nothing else, and never a part of a frame (R111). -/
structure Command where
  word : Word
  operand : Bytes
deriving DecidableEq, Repr

/-- What an instruction of the table is decoded from, one constructor per format: a host command, or a unit of a wire
format, which the FPC decodes inside the operand of a FRAME (R93). The last three are no transfers (R111, log 2). -/
inductive Encoded where
  /-- a 32-bit command word and its data operand (empty but for FRAME) -/
  | command (word : Word) (operand : Bytes)
  /-- the 6 bytes of a transfer-frame header (R73) -/
  | tfh (bytes : Bytes)
  /-- the 2 bytes of an M-PDU header and the packet zone after them (R77) -/
  | mpdu (bytes : Bytes)
  /-- the 6 bytes of a packet primary header and the bytes after it in the parser's buffer (R80, R127) -/
  | packet (bytes : Bytes)
deriving DecidableEq, Repr

/-- A transfer as what it is decoded from: the whole command, never a part of a frame. -/
def Command.encoded (c : Command) : Encoded := .command c.word c.operand

/-- Why the decoder refuses. The first two are transfers that do "not exist in the command interface" (R111). -/
inductive DecodeError where
  /-- a FRAME whose data operand is not FRAME_SIZE bytes (R69, R111) -/
  | frameOperandLength
  /-- a data operand with a command that carries none (R68, R176) -/
  | unexpectedOperand
  /-- a unit of a wire format with the wrong number of bytes; no transfer is one (log 11) -/
  | wireLength
deriving DecidableEq, Repr

/-- The instructions: one constructor per row of opcode_table.json. Bits that a rule ignores are operands too, so that
no bit of an encoding is lost; the meanings do not read them (R87, R88). -/
inductive Instr where
  /-- FRAME, OP 0x1 (R94): RSV and ARG ignored, F the data operand -/
  | frame (rsv : BitVec 4) (arg : BitVec 24) (f : Bytes)
  /-- TAIL, OP 0x2 (R104): n = ARG[23:0] -/
  | tail (rsv : BitVec 4) (n : BitVec 24)
  /-- EOS, OP 0x3 (R105) -/
  | eos (rsv : BitVec 4) (arg : BitVec 24)
  /-- CFG, OP 0x4 (R173): keep = ARG[0], ign = ARG[23:1] -/
  | cfg (rsv : BitVec 4) (keep : BitVec 1) (ign : BitVec 23)
  /-- READ, OP 0x5 (R174): index = ARG[7:0], ign = ARG[23:8] -/
  | read (rsv : BitVec 4) (index : BitVec 8) (ign : BitVec 16)
  /-- RESET, OP 0xF (R175) -/
  | reset (rsv : BitVec 4) (arg : BitVec 24)
  /-- ILLEGAL_0, OP 0x0 (R176) -/
  | illegal0 (rsv : BitVec 4) (arg : BitVec 24)
  /-- ILLEGAL_6, OP 0x6 (R176) -/
  | illegal6 (rsv : BitVec 4) (arg : BitVec 24)
  /-- ILLEGAL_7, OP 0x7 (R176) -/
  | illegal7 (rsv : BitVec 4) (arg : BitVec 24)
  /-- ILLEGAL_8, OP 0x8 (R176) -/
  | illegal8 (rsv : BitVec 4) (arg : BitVec 24)
  /-- ILLEGAL_9, OP 0x9 (R176) -/
  | illegal9 (rsv : BitVec 4) (arg : BitVec 24)
  /-- ILLEGAL_A, OP 0xA (R176) -/
  | illegalA (rsv : BitVec 4) (arg : BitVec 24)
  /-- ILLEGAL_B, OP 0xB (R176) -/
  | illegalB (rsv : BitVec 4) (arg : BitVec 24)
  /-- ILLEGAL_C, OP 0xC (R176) -/
  | illegalC (rsv : BitVec 4) (arg : BitVec 24)
  /-- ILLEGAL_D, OP 0xD (R176) -/
  | illegalD (rsv : BitVec 4) (arg : BitVec 24)
  /-- ILLEGAL_E, OP 0xE (R176) -/
  | illegalE (rsv : BitVec 4) (arg : BitVec 24)
  /-- FRAME_HEADER (R73, R95): unused1 = F<1>[7:6] and unused5 = F<5> are read by no rule (R75) -/
  | frameHeader (version : BitVec 2) (scid : BitVec 6) (unused1 : BitVec 2) (vcid : BitVec 6) (ctr : BitVec 24) (unused5 : BitVec 8)
  /-- MPDU_NOHDR (R122, R123): FHP = 2047; zone is the packet zone -/
  | mpduNohdr (spare : BitVec 5) (zone : Bytes)
  /-- MPDU_PTR (R114): FHP other than 2047; zone is the packet zone -/
  | mpduPtr (spare : BitVec 5) (fhp : BitVec 11) (zone : Bytes)
  /-- PH_FILL (R132): APID = 2047; rest is what follows the header in the parser's buffer -/
  | phFill (ver : BitVec 3) (type shf : BitVec 1) (sf : BitVec 2) (cnt : BitVec 14) (lenField : BitVec 16) (rest : Bytes)
  /-- PH_CONT (R136, R138): SF = 0 and APID other than 2047 -/
  | phCont (ver : BitVec 3) (type shf : BitVec 1) (apid : BitVec 11) (cnt : BitVec 14) (lenField : BitVec 16) (rest : Bytes)
  /-- PH_FIRST (R134): SF = 1 and APID other than 2047 -/
  | phFirst (ver : BitVec 3) (type shf : BitVec 1) (apid : BitVec 11) (cnt : BitVec 14) (lenField : BitVec 16) (rest : Bytes)
  /-- PH_LAST (R137, R138): SF = 2 and APID other than 2047 -/
  | phLast (ver : BitVec 3) (type shf : BitVec 1) (apid : BitVec 11) (cnt : BitVec 14) (lenField : BitVec 16) (rest : Bytes)
  /-- PH_STANDALONE (R135): SF = 3 and APID other than 2047 -/
  | phStandalone (ver : BitVec 3) (type shf : BitVec 1) (apid : BitVec 11) (cnt : BitVec 14) (lenField : BitVec 16) (rest : Bytes)
deriving DecidableEq, Repr

end Sys2Proof
end

