-- ==== Sys2Proof/WellFormed.lean ====
section
/-! DEFINITION. Which terms of Instr the encodings of 30_encoding.md have: operand lengths, and the class conditions the
decoder has already used up (FHP and APID other than 2047). -/

namespace Sys2Proof

/-- The bytes after a packet header in the parser's buffer: the buffer has at most 5 + ZONE bytes (R27), 6 of them the
header. -/
abbrev RestFits (frameSize : Nat) (rest : Bytes) : Prop := rest.length + 6 ≤ Config.zone frameSize + 5

/-- A well-formed instruction of an instance with the given FRAME_SIZE. -/
def Instr.WellFormed (frameSize : Nat) : Instr → Prop
  | .frame _ _ f => f.length = frameSize
  | .mpduNohdr _ zone => zone.length = Config.zone frameSize
  | .mpduPtr _ fhp zone => fhp ≠ Config.fhpNohdr ∧ zone.length = Config.zone frameSize
  | .phFill _ _ _ _ _ _ rest => RestFits frameSize rest
  | .phCont _ _ _ apid _ _ rest => apid ≠ Config.apidFill ∧ RestFits frameSize rest
  | .phFirst _ _ _ apid _ _ rest => apid ≠ Config.apidFill ∧ RestFits frameSize rest
  | .phLast _ _ _ apid _ _ rest => apid ≠ Config.apidFill ∧ RestFits frameSize rest
  | .phStandalone _ _ _ apid _ _ rest => apid ≠ Config.apidFill ∧ RestFits frameSize rest
  | .tail _ _ => True
  | .eos _ _ => True
  | .cfg _ _ _ => True
  | .read _ _ _ => True
  | .reset _ _ => True
  | .illegal0 _ _ => True
  | .illegal6 _ _ => True
  | .illegal7 _ _ => True
  | .illegal8 _ _ => True
  | .illegal9 _ _ => True
  | .illegalA _ _ => True
  | .illegalB _ _ => True
  | .illegalC _ _ => True
  | .illegalD _ _ => True
  | .illegalE _ _ => True
  | .frameHeader _ _ _ _ _ _ => True

end Sys2Proof
end

