-- ==== Sys2Proof/Decode.lean ====
section
/-! DEFINITION. Big-endian reads and field extraction (20_memory.md, 30_encoding.md), the decoder, and after
it the encoder. -/

namespace Sys2Proof

/-- `B<i>` (R14). A byte past the end, which no rule reads, is 0. -/
def byteAt (b : Bytes) (i : Nat) : Byte := b.getD i 0

/-- `B[a..b)` with clamping (R14). -/
def slice (b : Bytes) (lo hi : Nat) : Bytes := (b.take hi).drop lo

/-- be16(B, i) (R14, R52). -/
def be16 (b : Bytes) (i : Nat) : BitVec 16 := byteAt b i ++ byteAt b (i + 1)

/-- be24(B, i) (R14, R52). -/
def be24 (b : Bytes) (i : Nat) : BitVec 24 := byteAt b i ++ byteAt b (i + 1) ++ byteAt b (i + 2)

/-- The two bytes of a 16-bit value, most significant first (R52). -/
def bytes16 (v : BitVec 16) : Bytes := [v.extractLsb' 8 8, v.extractLsb' 0 8]

/-- The three bytes of a 24-bit value, most significant first (R52). -/
def bytes24 (v : BitVec 24) : Bytes := [v.extractLsb' 16 8, v.extractLsb' 8 8, v.extractLsb' 0 8]

/-- DecodeFrameHeader (R74, R95). -/
def decodeFrameHeader (f : Bytes) : FrameHeader where
  version := (byteAt f 0).extractLsb' 6 2
  scid := (byteAt f 0).extractLsb' 0 6
  vcid := (byteAt f 1).extractLsb' 0 6
  ctr := be24 f 2

/-- The FHP of an M-PDU header word W (R77). -/
def fhpOfWord (w : BitVec 16) : BitVec 11 := w.extractLsb' 0 11

/-- FhpDecode (R112). -/
def fhpDecode (f : Bytes) : BitVec 11 := fhpOfWord (be16 f 6)

/-- ParseHeader (R81, R130). -/
def parseHeader (b : Bytes) : PacketHeader where
  ver := (byteAt b 0).extractLsb' 5 3
  type := (byteAt b 0).extractLsb' 4 1
  shf := (byteAt b 0).extractLsb' 3 1
  apid := (byteAt b 0).extractLsb' 0 3 ++ byteAt b 1
  sf := (byteAt b 2).extractLsb' 6 2
  cnt := (byteAt b 2).extractLsb' 0 6 ++ byteAt b 3
  lenField := be16 b 4

/-- The decode class of a header: the fill test first, then SF (R82, R85). -/
def classOf (h : PacketHeader) : PhClass :=
  if h.apid = Config.apidFill then .fill
  else if h.sf = 0#2 then .cont
  else if h.sf = 1#2 then .first
  else if h.sf = 2#2 then .last
  else .standalone

/-- OP, bits 3:0 of a command word (R67). -/
def opOf (w : Word) : BitVec 4 := w.extractLsb' 0 4

/-- RSV, bits 7:4 (R67). -/
def rsvOf (w : Word) : BitVec 4 := w.extractLsb' 4 4

/-- ARG, bits 31:8 (R67). -/
def argOf (w : Word) : BitVec 24 := w.extractLsb' 8 24

/-- A command word from its fields (R67). -/
def commandWord (op rsv : BitVec 4) (arg : BitVec 24) : Word := arg ++ rsv ++ op

/-- The command a word selects, by OP alone (R67, R68); `f` is the data operand, which FRAME alone keeps. OP has 16
values and the last arm is 0xF. -/
def decodeOp (w : Word) (f : Bytes) : Instr :=
  match (opOf w).toNat with
  | 0x0 => .illegal0 (rsvOf w) (argOf w)
  | 0x1 => .frame (rsvOf w) (argOf w) f
  | 0x2 => .tail (rsvOf w) (argOf w)
  | 0x3 => .eos (rsvOf w) (argOf w)
  | 0x4 => .cfg (rsvOf w) (w.extractLsb' 8 1) (w.extractLsb' 9 23)
  | 0x5 => .read (rsvOf w) (w.extractLsb' 8 8) (w.extractLsb' 16 16)
  | 0x6 => .illegal6 (rsvOf w) (argOf w)
  | 0x7 => .illegal7 (rsvOf w) (argOf w)
  | 0x8 => .illegal8 (rsvOf w) (argOf w)
  | 0x9 => .illegal9 (rsvOf w) (argOf w)
  | 0xA => .illegalA (rsvOf w) (argOf w)
  | 0xB => .illegalB (rsvOf w) (argOf w)
  | 0xC => .illegalC (rsvOf w) (argOf w)
  | 0xD => .illegalD (rsvOf w) (argOf w)
  | 0xE => .illegalE (rsvOf w) (argOf w)
  | _ => .reset (rsvOf w) (argOf w)

/-- The operand length a command word asks for: FRAME_SIZE bytes with FRAME, none with any other (R68). -/
def operandLength (frameSize : Nat) (w : Word) : Nat := if opOf w = 0x1#4 then frameSize else 0

/-- A command transfer (R67 to R69): refused when its operand is not the one its OP carries (R111, R176). -/
def decodeCommand (frameSize : Nat) (w : Word) (operand : Bytes) : Except DecodeError Instr :=
  if operand.length = operandLength frameSize w then .ok (decodeOp w operand)
  else if opOf w = 0x1#4 then .error .frameOperandLength
  else .error .unexpectedOperand

/-- A transfer-frame header: exactly 6 bytes, every value decodes (R73 to R76). -/
def decodeTfh (b : Bytes) : Except DecodeError Instr :=
  if b.length = 6 then
    .ok (.frameHeader (decodeFrameHeader b).version (decodeFrameHeader b).scid ((byteAt b 1).extractLsb' 6 2)
      (decodeFrameHeader b).vcid (decodeFrameHeader b).ctr (byteAt b 5))
  else .error .wireLength

/-- An M-PDU header word and its packet zone: NOHDR is tested before PTR (R77, R79). -/
def decodeMpdu (frameSize : Nat) (b : Bytes) : Except DecodeError Instr :=
  if b.length = Config.zone frameSize + 2 then
    if fhpOfWord (be16 b 0) = Config.fhpNohdr then .ok (.mpduNohdr ((be16 b 0).extractLsb' 11 5) (b.drop 2))
    else .ok (.mpduPtr ((be16 b 0).extractLsb' 11 5) (fhpOfWord (be16 b 0)) (b.drop 2))
  else .error .wireLength

/-- The instruction of a packet header's class (R85), with the bytes after the header. -/
def decodePh (h : PacketHeader) (rest : Bytes) : Instr :=
  match classOf h with
  | .fill => .phFill h.ver h.type h.shf h.sf h.cnt h.lenField rest
  | .cont => .phCont h.ver h.type h.shf h.apid h.cnt h.lenField rest
  | .first => .phFirst h.ver h.type h.shf h.apid h.cnt h.lenField rest
  | .last => .phLast h.ver h.type h.shf h.apid h.cnt h.lenField rest
  | .standalone => .phStandalone h.ver h.type h.shf h.apid h.cnt h.lenField rest

/-- A packet primary header at the front of a parser buffer: at least its 6 bytes (R127), at most 5 + ZONE (R27). -/
def decodePacket (frameSize : Nat) (b : Bytes) : Except DecodeError Instr :=
  if 6 ≤ b.length ∧ b.length ≤ Config.zone frameSize + 5 then .ok (decodePh (parseHeader b) (b.drop 6))
  else .error .wireLength

/-- The decoder: total on any content of any format, refusing by name. -/
def decode (frameSize : Nat) : Encoded → Except DecodeError Instr
  | .command w operand => decodeCommand frameSize w operand
  | .tfh b => decodeTfh b
  | .mpdu b => decodeMpdu frameSize b
  | .packet b => decodePacket frameSize b

/-- The 6 bytes of a transfer-frame header (R73). -/
def frameHeaderBytes (version : BitVec 2) (scid : BitVec 6) (unused1 : BitVec 2) (vcid : BitVec 6) (ctr : BitVec 24)
    (unused5 : BitVec 8) : Bytes :=
  [version ++ scid, unused1 ++ vcid] ++ bytes24 ctr ++ [unused5]

/-- The 6 bytes of a packet primary header (R80). -/
def headerBytes (h : PacketHeader) : Bytes :=
  [h.ver ++ h.type ++ h.shf ++ h.apid.extractLsb' 8 3, h.apid.extractLsb' 0 8,
    h.sf ++ h.cnt.extractLsb' 8 6, h.cnt.extractLsb' 0 8] ++ bytes16 h.lenField

/-- The encoder, from the same tables. -/
def encode : Instr → Encoded
  | .frame rsv arg f => .command (commandWord 0x1#4 rsv arg) f
  | .tail rsv n => .command (commandWord 0x2#4 rsv n) []
  | .eos rsv arg => .command (commandWord 0x3#4 rsv arg) []
  | .cfg rsv keep ign => .command (commandWord 0x4#4 rsv (ign ++ keep)) []
  | .read rsv index ign => .command (commandWord 0x5#4 rsv (ign ++ index)) []
  | .reset rsv arg => .command (commandWord 0xF#4 rsv arg) []
  | .illegal0 rsv arg => .command (commandWord 0x0#4 rsv arg) []
  | .illegal6 rsv arg => .command (commandWord 0x6#4 rsv arg) []
  | .illegal7 rsv arg => .command (commandWord 0x7#4 rsv arg) []
  | .illegal8 rsv arg => .command (commandWord 0x8#4 rsv arg) []
  | .illegal9 rsv arg => .command (commandWord 0x9#4 rsv arg) []
  | .illegalA rsv arg => .command (commandWord 0xA#4 rsv arg) []
  | .illegalB rsv arg => .command (commandWord 0xB#4 rsv arg) []
  | .illegalC rsv arg => .command (commandWord 0xC#4 rsv arg) []
  | .illegalD rsv arg => .command (commandWord 0xD#4 rsv arg) []
  | .illegalE rsv arg => .command (commandWord 0xE#4 rsv arg) []
  | .frameHeader version scid unused1 vcid ctr unused5 =>
    .tfh (frameHeaderBytes version scid unused1 vcid ctr unused5)
  | .mpduNohdr spare zone => .mpdu (bytes16 (spare ++ Config.fhpNohdr) ++ zone)
  | .mpduPtr spare fhp zone => .mpdu (bytes16 (spare ++ fhp) ++ zone)
  | .phFill ver type shf sf cnt lenField rest =>
    .packet (headerBytes ⟨ver, type, shf, Config.apidFill, sf, cnt, lenField⟩ ++ rest)
  | .phCont ver type shf apid cnt lenField rest =>
    .packet (headerBytes ⟨ver, type, shf, apid, 0#2, cnt, lenField⟩ ++ rest)
  | .phFirst ver type shf apid cnt lenField rest =>
    .packet (headerBytes ⟨ver, type, shf, apid, 1#2, cnt, lenField⟩ ++ rest)
  | .phLast ver type shf apid cnt lenField rest =>
    .packet (headerBytes ⟨ver, type, shf, apid, 2#2, cnt, lenField⟩ ++ rest)
  | .phStandalone ver type shf apid cnt lenField rest =>
    .packet (headerBytes ⟨ver, type, shf, apid, 3#2, cnt, lenField⟩ ++ rest)

/-- The 6 bytes of a 48-bit word, most significant first (R52, R73, R80). -/
def bytes48 (v : BitVec 48) : Bytes :=
  [v.extractLsb' 40 8, v.extractLsb' 32 8, v.extractLsb' 24 8, v.extractLsb' 16 8, v.extractLsb' 8 8, v.extractLsb' 0 8]

/-- The command of a word with an operand of zero bytes (none but for FRAME). -/
def tableCommand (frameSize : Nat) (w : Word) : Encoded :=
  .command w (List.replicate (operandLength frameSize w) 0#8)

/-- The fixed bits of the rows PH_CONT, PH_FIRST, PH_LAST and PH_STANDALONE, which opcode_table.json gives bits 31:30
and no higher bit, with every other bit 0. -/
def isBarePhRow (w : Nat) : Bool := w % 2 ^ 30 = 0

/-- What a word of opcode_table.json is decoded from, given by how many bits the table gives its row. The table
numbers four formats in one space, so the width names the format (log 12): no bit at all is FRAME_HEADER (mask 0), 8
bits a command row (its mask is OP only, R93), 16 bits an M-PDU word, 32 bits the bare word of a PH row that fixes
bits 31:30 and else a whole command word, 48 bits a packet header. Bits above the row's, operand bytes and zone are 0. -/
def tableEncoding (frameSize nbits w : Nat) : Option Encoded :=
  if 2 ^ nbits ≤ w then none
  else if nbits = 0 then some (.tfh (List.replicate 6 0#8))
  else if nbits ≤ 8 then some (tableCommand frameSize (BitVec.ofNat 32 w))
  else if nbits ≤ 16 then some (.mpdu (bytes16 (BitVec.ofNat 16 w) ++ List.replicate (Config.zone frameSize) 0#8))
  else if nbits ≤ 32 then
    if isBarePhRow w then some (.packet (bytes48 (BitVec.ofNat 48 w)))
    else some (tableCommand frameSize (BitVec.ofNat 32 w))
  else if nbits ≤ 48 then some (.packet (bytes48 (BitVec.ofNat 48 w)))
  else none

/-- A FRAME command whose operand begins with the given bytes and goes on with zeros (R68, R69). -/
def frameCommand (frameSize : Nat) (f : Bytes) : Command :=
  ⟨commandWord 0x1#4 0#4 0#24, (f ++ List.replicate frameSize 0#8).take frameSize⟩

/-- The host command in which the FPC meets an encoding: a command is its own; a unit of a wire format stands at its
place in a whole FRAME, a packet header at the first byte of the zone, where FHP = 0 points (R73, R77, R78, log 12). -/
def carrier (frameSize : Nat) : Encoded → Command
  | .command w operand => ⟨w, operand⟩
  | .tfh b => frameCommand frameSize b
  | .mpdu b => frameCommand frameSize (List.replicate 6 0#8 ++ b)
  | .packet b => frameCommand frameSize (List.replicate 8 0#8 ++ b)

/-- The instruction the decoder reads from a word of opcode_table.json, at the default FRAME_SIZE. -/
def decodeTableWord (nbits w : Nat) : Option Instr :=
  match tableEncoding Config.frameSizeDefault nbits w with
  | none => none
  | some t =>
    match decode Config.frameSizeDefault t with
    | .ok i => some i
    | .error _ => none

end Sys2Proof
end

