-- ==== Sys2Proof/Machine/Crc.lean ====
section
/-! DEFINITION. The CRC-16 validator (43_crc16.md): the default of CRC16_FN, and the bitwise form R152 compares it with. -/

namespace Sys2Proof.Machine

/-- The two 8-bit accumulators (R146). -/
structure CrcAcc where
  lsb : Byte
  msb : Byte
deriving DecidableEq, Repr

/-- The accumulators before the first byte (R147). -/
def crcInit : CrcAcc := ⟨0xFF#8, 0xFF#8⟩

/-- `x` after its two lines in R146, from the byte and the old msb. -/
def crcMix (c msb : Byte) : Byte := (c ^^^ msb) ^^^ ((c ^^^ msb) >>> 4)

/-- One byte of the recurrence (R146): 8-bit shifts, so the masking AND is in the width. -/
def crcByte (acc : CrcAcc) (c : Byte) : CrcAcc where
  lsb := crcMix c acc.msb ^^^ (crcMix c acc.msb <<< 5)
  msb := acc.lsb ^^^ (crcMix c acc.msb >>> 3) ^^^ (crcMix c acc.msb <<< 4)

/-- CRC16 (R146), assembled as `msb * 256 + lsb` (R148). PRESUMED: the recurrence and the initial values are from
general knowledge (GK1, log 6). -/
def crc16 (d : Bytes) : BitVec 16 :=
  let acc := d.foldl crcByte crcInit
  acc.msb ++ acc.lsb

/-- One bit of the table-free CRC-16 with polynomial 0x1021, most significant bit first (R152). -/
def crcShift (r : BitVec 16) : BitVec 16 := if r.msb then (r <<< 1) ^^^ 0x1021#16 else r <<< 1

/-- One byte of the bitwise form: the byte enters at the high end, then eight shifts (R152). -/
def crcBitwiseByte (r : BitVec 16) (c : Byte) : BitVec 16 :=
  Nat.repeat crcShift 8 (r ^^^ (c ++ 0#8))

/-- CRC-16/CCITT-FALSE, bit by bit: initial value 0xFFFF, no reflection, no final XOR (R152). -/
def crcBitwise (d : Bytes) : BitVec 16 := d.foldl crcBitwiseByte 0xFFFF#16

/-- The configuration of the machine: CRC16_FN at its default (R11). -/
def config : Config where
  crc16Fn := crc16

/-- validate (R151). -/
def validateCrc (payload : Bytes) (expected : BitVec 16) : Bool := config.crc16Fn payload = expected

end Sys2Proof.Machine
end

