-- ==== Sys2Proof/Machine/State.lean ====
section
/-! DEFINITION. The state of the FPC (10_state.md), the records of its output stream, and the reasons a step can end
other than in a next state. -/

namespace Sys2Proof.Machine

/-- `dir` of EV_PACKET_SIZE_MISMATCH (R188): 0 = SHORT, 1 = LONG. -/
inductive SizeDir where
  | short | long
deriving DecidableEq, Repr

/-- `reason` of EV_BYTES_DISCARDED (R185): UNOWNED = 0, RESIDUE = 1, END = 2. The value 3 is never emitted. -/
inductive DiscardReason where
  | unowned | residue | endOfStream
deriving DecidableEq, Repr

/-- The event records (R180), each with the information fields of its rule. -/
inductive Event where
  /-- EV_TRUNCATED_TAIL (R181) -/
  | truncatedTail (bytes : BitVec 24)
  /-- EV_FRAME_SEQUENCE_GAP (R182) -/
  | frameSequenceGap (dropped last ctr : BitVec 24)
  /-- EV_COUNTER_ANOMALY (R183) -/
  | counterAnomaly (last ctr modDelta : BitVec 24)
  /-- EV_FHP_OUT_OF_RANGE (R184) -/
  | fhpOutOfRange (fhp : BitVec 11)
  /-- EV_BYTES_DISCARDED (R185) -/
  | bytesDiscarded (count : BitVec 16) (reason : DiscardReason)
  /-- EV_ORPHAN_SEGMENT (R187) -/
  | orphanSegment (apid : BitVec 11) (sf : BitVec 2) (cnt : BitVec 14) (len : BitVec 17)
  /-- EV_PACKET_SIZE_MISMATCH (R188) -/
  | packetSizeMismatch (apid : BitVec 11) (sf : BitVec 2) (cnt : BitVec 14) (len : BitVec 17) (rx : BitVec 32)
      (dir : SizeDir) (fd : Bool)
  /-- EV_CRC_MISMATCH (R189) -/
  | crcMismatch (apid : BitVec 11) (sf : BitVec 2) (cnt : BitVec 14) (crcRx crcCalc : BitVec 16) (kept noTrailer : Bool)
  /-- EV_REPORT (R190) -/
  | report (dropped saved crcfail : BitVec 32)
  /-- EV_CMD_AFTER_END (R191) -/
  | cmdAfterEnd (op : BitVec 4)
  /-- EV_ILLEGAL_CMD (R192) -/
  | illegalCmd (word : Word)
deriving DecidableEq, Repr

/-- A PKT record: a released packet (R163). -/
structure PktRec where
  apid : BitVec 11
  ver : BitVec 3
  type : BitVec 1
  shf : BitVec 1
  sf : BitVec 2
  cnt : BitVec 14
  len : BitVec 17
  payload : Bytes
  crcRx : BitVec 16
  crcCalc : BitVec 16
  crcOk : Bool
  framesDropped : Bool
  sizeLong : Bool
  groupEnd : Bool
deriving DecidableEq, Repr

/-- One record of OUTQ (R38). -/
inductive Record where
  /-- PKT(rec) -/
  | pkt (rec : PktRec)
  /-- EVT(code, info) -/
  | evt (e : Event)
  /-- RDATA(v) -/
  | rdata (v : Word)
deriving DecidableEq, Repr

/-- A packet value (R127): what the parser creates and Flush judges. Not state. -/
structure Packet where
  ver : BitVec 3
  type : BitVec 1
  shf : BitVec 1
  apid : BitVec 11
  sf : BitVec 2
  cnt : BitVec 14
  len : BitVec 17
  fd : Bool
  data : Bytes
  rx : BitVec 32
deriving DecidableEq, Repr

/-- The state record of R49, and two fields of the model's own: the instance's FRAME_SIZE (log 5) and the command
port (log 1). -/
structure State where
  /-- FRAME_SIZE (R7): a parameter, fixed for the life of the instance -/
  frameSize : Nat
  /-- the transfers the host has presented and the FPC has not taken, oldest first (R21, R67) -/
  port : List Command
  /-- CTRL.KEEP_CORRUPT (R23) -/
  keepCorrupt : Bool
  /-- HAVE_LAST (R25) -/
  haveLast : Bool
  /-- LAST_CTR (R25) -/
  lastCtr : BitVec 24
  /-- LAST_VER (R26) -/
  lastVer : BitVec 2
  /-- LAST_SCID (R26) -/
  lastScid : BitVec 6
  /-- LAST_VCID (R26) -/
  lastVcid : BitVec 6
  /-- LAST_FHP (R26) -/
  lastFhp : BitVec 11
  /-- CARRY (R27) -/
  carry : Bytes
  /-- CARRY_GAP (R27) -/
  carryGap : Bool
  /-- ACTIVE_VALID (R28) -/
  activeValid : Bool
  /-- PEND_VER (R29) -/
  pendVer : BitVec 3
  /-- PEND_TYPE (R29) -/
  pendType : BitVec 1
  /-- PEND_SHF (R29) -/
  pendShf : BitVec 1
  /-- PEND_APID (R29) -/
  pendApid : BitVec 11
  /-- PEND_SF (R29) -/
  pendSf : BitVec 2
  /-- PEND_CNT (R29) -/
  pendCnt : BitVec 14
  /-- PEND_LEN (R29) -/
  pendLen : BitVec 17
  /-- PEND_FD (R29) -/
  pendFd : Bool
  /-- PEND_DATA (R30), held as the sequence of its received bytes (R49, log 7) -/
  pendData : Bytes
  /-- PEND_RX (R30) -/
  pendRx : BitVec 32
  /-- GROUP_OPEN (R31): bit a is APID a, 0..2046 -/
  groupOpen : BitVec 2047
  /-- CNT_DROPPED (R32) -/
  cntDropped : BitVec 32
  /-- CNT_SAVED (R32) -/
  cntSaved : BitVec 32
  /-- CNT_CRCFAIL (R32) -/
  cntCrcfail : BitVec 32
  /-- ENDED (R33) -/
  ended : Bool
  /-- OUTQ (R38), oldest record first -/
  outq : List Record
deriving DecidableEq, Repr

/-- Faults: none. "No fatal condition exists inside the FPC. No command and no byte value stops it" (R194); every
condition is an event record. The type has no constructor, so no step can end in a fault. -/
inductive Fault where
deriving DecidableEq, Repr

/-- Why a step is refused. -/
inductive Refusal where
  /-- raised by exec for an instruction without a meaning; no arm does. Safe: the machine stops. -/
  | notModelled (mnemonic : String)
  /-- raised by step alone, when the decoder refuses the next transfer "before any FPC step" (R111, R69, R176).
  Safe: no such transfer exists in the command interface. -/
  | malformedTransfer (why : DecodeError)
deriving DecidableEq, Repr

/-- The state after power-on of an instance with the given FRAME_SIZE: ResetState with OUTQ empty (R46, R210, R212),
and no transfer presented yet. -/
def State.powerOn (frameSize : Nat) : State where
  frameSize := frameSize
  port := []
  keepCorrupt := false
  haveLast := false
  lastCtr := 0#24
  lastVer := 0#2
  lastScid := 0#6
  lastVcid := 0#6
  lastFhp := 0#11
  carry := []
  carryGap := false
  activeValid := false
  pendVer := 0#3
  pendType := 0#1
  pendShf := 0#1
  pendApid := 0#11
  pendSf := 0#2
  pendCnt := 0#14
  pendLen := 0#17
  pendFd := false
  pendData := []
  pendRx := 0#32
  groupOpen := 0#2047
  cntDropped := 0#32
  cntSaved := 0#32
  cntCrcfail := 0#32
  ended := false
  outq := []

/-- The machine right after reset, with FRAME_SIZE at its default 892 (R7, log 5). -/
def State.reset : State := State.powerOn Config.frameSizeDefault

end Sys2Proof.Machine
end

