-- ==== Sys2Proof/Machine/Flags.lean ====
section
/-! DEFINITION. Counter arithmetic, the flag computations, the group bits, and the codes and values of events. -/

namespace Sys2Proof.Machine

/-- sat_add on 32 bits (R17). -/
def satAdd (a : BitVec 32) (n : Nat) : BitVec 32 := BitVec.ofNat 32 (min (a.toNat + n) Config.cntMax)

/-- `(ctr - last) mod 2^24` (R96). -/
def ctrDelta (last ctr : BitVec 24) : BitVec 24 := ctr - last

/-- What the counter check finds when a previous counter exists (R96). -/
inductive CtrVerdict where
  /-- in sequence, the wrap included (R98) -/
  | inSequence
  /-- a forward gap (R97) -/
  | gap
  /-- a counter anomaly (R99) -/
  | anomaly
deriving DecidableEq, Repr

/-- The three cases of CounterCheck, in its order (R96 to R99). -/
def ctrVerdict (last ctr : BitVec 24) : CtrVerdict :=
  if ctrDelta last ctr = 1#24 then .inSequence
  else if last < ctr then .gap
  else .anomaly

/-- The number of frames missing in a forward gap, `ctr - LAST_CTR - 1` (R97). -/
def missingFrames (last ctr : BitVec 24) : BitVec 24 := ctr - last - 1#24

/-- GROUP_OPEN[a] (R31). -/
def groupBit (g : BitVec 2047) (a : BitVec 11) : Bool := g.getLsbD a.toNat

/-- GROUP_OPEN with bit a set to v (R31). -/
def setGroupBit (g : BitVec 2047) (a : BitVec 11) (v : Bool) : BitVec 2047 :=
  if v then g ||| (1#2047 <<< a.toNat) else g &&& ~~~(1#2047 <<< a.toNat)

/-- GROUP_END: SF is LAST or STANDALONE (R163, R165). -/
def groupEndOf (sf : BitVec 2) : Bool := sf = 2#2 || sf = 3#2

/-- The 8-bit event codes (R180). -/
def eventCode : Event → BitVec 8
  | .truncatedTail _ => 0x01#8
  | .frameSequenceGap _ _ _ => 0x02#8
  | .counterAnomaly _ _ _ => 0x03#8
  | .fhpOutOfRange _ => 0x04#8
  | .bytesDiscarded _ _ => 0x05#8
  | .orphanSegment _ _ _ _ => 0x07#8
  | .packetSizeMismatch _ _ _ _ _ _ _ => 0x08#8
  | .crcMismatch _ _ _ _ _ _ _ => 0x09#8
  | .report _ _ _ => 0x0A#8
  | .cmdAfterEnd _ => 0x0B#8
  | .illegalCmd _ => 0x0C#8

/-- The value of `reason` (R185). -/
def reasonValue : DiscardReason → BitVec 2
  | .unowned => 0#2
  | .residue => 1#2
  | .endOfStream => 2#2

/-- The value of `dir` (R188). -/
def dirValue : SizeDir → BitVec 1
  | .short => 0#1
  | .long => 1#1

end Sys2Proof.Machine
end

