-- ==== Sys2Proof/Machine/Operands.lean ====
section
/-! DEFINITION. The operand forms of the rules: the parts of a frame, the head and tail of a packet zone, and the
quantities a packet header declares. -/

namespace Sys2Proof.Machine

/-- The packet zone F[8..FRAME_SIZE) of a frame (R73, R94). -/
def zoneOf (frameSize : Nat) (f : Bytes) : Bytes := slice f 8 frameSize

/-- `head = Z[0..fhp)`, the bytes before the first new header (R114). -/
def headOf (fhp : BitVec 11) (z : Bytes) : Bytes := slice z 0 fhp.toNat

/-- `tail = Z[fhp..ZONE)`, the bytes from the first new header on (R114). -/
def tailOf (frameSize : Nat) (fhp : BitVec 11) (z : Bytes) : Bytes := slice z fhp.toNat (Config.zone frameSize)

/-- L = LEN_FIELD + 1, 1..65536 (R83). -/
def dataLength (h : PacketHeader) : BitVec 17 := BitVec.ofNat 17 (h.lenField.toNat + 1)

/-- The packet value a header and its bytes in the buffer make (R133, R139): `seg = rest[0..L)` (R131). -/
def packetOf (h : PacketHeader) (rest : Bytes) (fd : Bool) : Packet where
  ver := h.ver
  type := h.type
  shf := h.shf
  apid := h.apid
  sf := h.sf
  cnt := h.cnt
  len := dataLength h
  fd := fd
  data := slice rest 0 (dataLength h).toNat
  rx := BitVec.ofNat 32 (slice rest 0 (dataLength h).toNat).length

end Sys2Proof.Machine
end

