-- ==== Sys2Proof/Machine/Ops.lean ====
section
/-! DEFINITION. The procedures of the spec, as functions on State: output, the pending store, the slot, the counter
check, the validation stage, the parser, the demultiplexer, end of stream and reset. Names follow the pseudocode. -/

namespace Sys2Proof.Machine

/-! ### Output and events -/

/-- Append one record to OUTQ (R16, R38). -/
def emit (r : Record) (s : State) : State := { s with outq := s.outq ++ [r] }

/-- `raise EV_X(info)`: what this machine has for taking an exception. The record is appended and execution goes on
with the next line; no state is saved and no mode changes, so there is nothing to return from (R16, R195, R196). -/
def raiseEvent (e : Event) (s : State) : State := emit (.evt e) s

/-! ### The pending store and the slot -/

/-- MemRead(PEND_DATA, a, n) (R15). -/
def memRead (m : Bytes) (a n : Nat) : Bytes := slice m a (a + n)

/-- MemWrite(PEND_DATA, a, |v|, v) (R15): the bytes of v at offsets a onward, the others as they were. -/
def memWrite (m : Bytes) (a : Nat) (v : Bytes) : Bytes := m.take a ++ v ++ m.drop (a + v.length)

/-- `min(PEND_RX, PEND_LEN)`, the number of stored bytes (R30). -/
def storedCount (s : State) : Nat := min s.pendRx.toNat s.pendLen.toNat

/-- AppendPend (R58): store what fits below PEND_LEN, count everything. -/
def appendPend (b : Bytes) (s : State) : State :=
  let room := s.pendLen.toNat - storedCount s
  { s with
    pendData := memWrite s.pendData (storedCount s) (slice b 0 room)
    pendRx := satAdd s.pendRx b.length }

/-- SlotPacket (R167). -/
def slotPacket (s : State) : Packet where
  ver := s.pendVer
  type := s.pendType
  shf := s.pendShf
  apid := s.pendApid
  sf := s.pendSf
  cnt := s.pendCnt
  len := s.pendLen
  fd := s.pendFd
  data := memRead s.pendData 0 (storedCount s)
  rx := s.pendRx

/-- ReleaseSlot (R167). The contents of PEND_DATA are then unspecified and never read; the model lists none (log 7). -/
def releaseSlot (s : State) : State :=
  { s with
    activeValid := false
    pendVer := 0#3, pendType := 0#1, pendShf := 0#1, pendApid := 0#11, pendSf := 0#2, pendCnt := 0#14
    pendLen := 0#17, pendFd := false, pendData := [], pendRx := 0#32 }

/-- MakeActive (R142). The slot is empty when the parser calls it, so MemWrite(PEND_DATA, 0, ..) leaves p.DATA. -/
def makeActive (p : Packet) (s : State) : State :=
  { s with
    activeValid := true
    pendVer := p.ver, pendType := p.type, pendShf := p.shf, pendApid := p.apid, pendSf := p.sf, pendCnt := p.cnt
    pendLen := p.len, pendFd := p.fd, pendData := p.data, pendRx := p.rx }

/-- `CARRY <- b ; CARRY_GAP <- g`. -/
def setCarry (b : Bytes) (g : Bool) (s : State) : State := { s with carry := b, carryGap := g }

/-- `GROUP_OPEN[a] <- v`. -/
def setGroup (a : BitVec 11) (v : Bool) (s : State) : State := { s with groupOpen := setGroupBit s.groupOpen a v }

/-! ### Counters -/

/-- CNT_DROPPED grows by n (R103). -/
def addDropped (n : Nat) (s : State) : State := { s with cntDropped := satAdd s.cntDropped n }

/-- CNT_SAVED grows by 1 (R162). -/
def addSaved (s : State) : State := { s with cntSaved := satAdd s.cntSaved 1 }

/-- CNT_CRCFAIL grows by 1 (R160). -/
def addCrcfail (s : State) : State := { s with cntCrcfail := satAdd s.cntCrcfail 1 }

/-! ### Frame Reader -/

/-- Degrade (R100). -/
def degrade (s : State) : State :=
  { s with
    pendFd := if s.activeValid then true else s.pendFd
    carryGap := if s.carry.length > 0 then true else s.carryGap }

/-- `HAVE_LAST <- 1 ; LAST_CTR <- ctr` (R101). -/
def recordCtr (ctr : BitVec 24) (s : State) : State := { s with haveLast := true, lastCtr := ctr }

/-- A forward gap (R97): count, report, degrade. -/
def forwardGap (ctr : BitVec 24) (s : State) : State :=
  degrade (raiseEvent (.frameSequenceGap (missingFrames s.lastCtr ctr) s.lastCtr ctr)
    (addDropped (missingFrames s.lastCtr ctr).toNat s))

/-- A counter anomaly (R99): report and degrade, no drops. -/
def ctrAnomaly (ctr : BitVec 24) (s : State) : State :=
  degrade (raiseEvent (.counterAnomaly s.lastCtr ctr (ctrDelta s.lastCtr ctr)) s)

/-- The comparison of CounterCheck, made when a previous counter exists (R96, R102). -/
def compareCtr (ctr : BitVec 24) (s : State) : State :=
  if s.haveLast then
    match ctrVerdict s.lastCtr ctr with
    | .inSequence => s
    | .gap => forwardGap ctr s
    | .anomaly => ctrAnomaly ctr s
  else s

/-- CounterCheck (R96). -/
def counterCheck (ctr : BitVec 24) (s : State) : State := recordCtr ctr (compareCtr ctr s)

/-- The frame-header registers (R110). -/
def recordHeader (version : BitVec 2) (scid vcid : BitVec 6) (s : State) : State :=
  { s with lastVer := version, lastScid := scid, lastVcid := vcid }

/-- `LAST_FHP <- fhp` (R110). -/
def recordFhp (fhp : BitVec 11) (s : State) : State := { s with lastFhp := fhp }

/-! ### Validation stage -/

/-- What Flush computes from a trimmed packet before it decides (R154). -/
structure Verdict where
  payload : Bytes
  crcRx : BitVec 16
  crcCalc : BitVec 16
  noTrailer : Bool
  ok : Bool
deriving DecidableEq, Repr

/-- The CRC verdict on `d = p.DATA[0..L)` (R149, R150, R153, R158, R159). -/
def verdict (p : Packet) : Verdict :=
  let d := slice p.data 0 p.len.toNat
  if 2 ≤ p.len.toNat then
    let pay := slice d 0 (p.len.toNat - 2)
    let rx := be16 d (p.len.toNat - 2)
    { payload := pay, crcRx := rx, crcCalc := config.crc16Fn pay, noTrailer := false, ok := validateCrc pay rx }
  else
    { payload := [], crcRx := 0#16, crcCalc := config.crc16Fn [], noTrailer := true, ok := false }

/-- EV_PACKET_SIZE_MISMATCH of a packet (R188). -/
def sizeEvent (p : Packet) (dir : SizeDir) : Event := .packetSizeMismatch p.apid p.sf p.cnt p.len p.rx dir p.fd

/-- EV_CRC_MISMATCH of a packet (R189). -/
def crcEvent (p : Packet) (v : Verdict) (kept : Bool) : Event :=
  .crcMismatch p.apid p.sf p.cnt v.crcRx v.crcCalc kept v.noTrailer

/-- The PKT record of a packet (R163). -/
def pktRecord (p : Packet) (v : Verdict) (long : Bool) : PktRec where
  apid := p.apid
  ver := p.ver
  type := p.type
  shf := p.shf
  sf := p.sf
  cnt := p.cnt
  len := p.len
  payload := v.payload
  crcRx := v.crcRx
  crcCalc := v.crcCalc
  crcOk := v.ok
  framesDropped := p.fd
  sizeLong := long
  groupEnd := groupEndOf p.sf

/-- The CRC step: count and report a failure (R160). -/
def crcStep (p : Packet) (v : Verdict) (s : State) : State :=
  if v.ok then s else raiseEvent (crcEvent p v s.keepCorrupt) (addCrcfail s)

/-- The release step: R161, R162, R163. KEEP_CORRUPT is read here (R168). -/
def releaseStep (p : Packet) (v : Verdict) (long : Bool) (s : State) : State :=
  if v.ok || s.keepCorrupt then emit (.pkt (pktRecord p v long)) (addSaved s) else s

/-- Flush (R154): fill check (R155), size check (R156, R157), CRC (R159, R160), release (R161 to R163). -/
def flush (p : Packet) (s : State) : State :=
  if p.apid = Config.apidFill then s
  else if p.rx.toNat < p.len.toNat then raiseEvent (sizeEvent p .short) s
  else if p.len.toNat < p.rx.toNat then
    releaseStep p (verdict p) true (crcStep p (verdict p) (raiseEvent (sizeEvent p .long) s))
  else releaseStep p (verdict p) false (crcStep p (verdict p) s)

/-- `let p = SlotPacket() ; ReleaseSlot() ; Flush(p)`: the slot is released before Flush runs (R167). -/
def flushSlot (s : State) : State := flush (slotPacket s) (releaseSlot s)

/-! ### Packet parser -/

/-- An orphan segment (R138): reported, nothing else changes. -/
def orphan (h : PacketHeader) (s : State) : State :=
  raiseEvent (.orphanSegment h.apid h.sf h.cnt (dataLength h)) s

/-- SegmentAccept (R133), by decode class: the packet value, if there is one, and the state after. -/
def segmentAccept (h : PacketHeader) (rest : Bytes) (fd : Bool) (s : State) : Option Packet × State :=
  match classOf h with
  | .fill => (none, s)
  | .first => (some (packetOf h rest fd), setGroup h.apid true s)
  | .standalone => (some (packetOf h rest fd), setGroup h.apid false s)
  | .cont => if groupBit s.groupOpen h.apid then (some (packetOf h rest fd), s) else (none, orphan h s)
  | .last =>
    if groupBit s.groupOpen h.apid then (some (packetOf h rest fd), setGroup h.apid false s)
    else (none, orphan h s)

/-- `if p != none: Flush(p)` (R141). -/
def flushOpt (p : Option Packet) (s : State) : State :=
  match p with
  | some p => flush p s
  | none => s

/-- `if p != none: MakeActive(p)` (R142). -/
def makeActiveOpt (p : Option Packet) (s : State) : State :=
  match p with
  | some p => makeActive p s
  | none => s

/-- One pass of the Parse loop after a header has been decoded (R127): the state after it and, when the packet ends
inside the buffer, the bytes the loop goes on with (R140, R141); `none` when the loop stops (R142). -/
def parsePass (h : PacketHeader) (rest : Bytes) (fd : Bool) (s : State) : State × Option Bytes :=
  let a := segmentAccept h rest fd s
  if (dataLength h).toNat < rest.length then
    (flushOpt a.1 a.2, some (slice rest (dataLength h).toNat rest.length))
  else (setCarry [] false (makeActiveOpt a.1 a.2), none)

/-- The Parse loop (R127), with a bound on its passes. `g` is the gap flag of the buffer's first bytes; it is passed on
to the first header only (R129) and kept with a buffer too short for one (R128). -/
def parseLoop : Nat → Bytes → Bool → State → State
  | 0, _, _, s => s
  | n + 1, buf, g, s =>
    if buf.length < 6 then setCarry buf (g && buf.length != 0) s
    else
      match parsePass (parseHeader (slice buf 0 6)) (slice buf 6 buf.length) g s with
      | (t, some next) => parseLoop n next false t
      | (t, none) => t

/-- Parse (R127). The loop ends after at most floor(|buf| / 7) + 1 passes (R145). -/
def parse (buf : Bytes) (g : Bool) (s : State) : State := parseLoop (buf.length / 7 + 1) buf g s

/-! ### Demultiplexer -/

/-- EV_BYTES_DISCARDED with the 16-bit count of the bytes dropped (R185). -/
def discardEvent (b : Bytes) (reason : DiscardReason) : Event := .bytesDiscarded (BitVec.ofNat 16 b.length) reason

/-- Report and drop what is left in CARRY (R117, R106). -/
def discardCarry (reason : DiscardReason) (s : State) : State :=
  setCarry [] false (raiseEvent (discardEvent s.carry reason) s)

/-- Case A1 (R115 to R117): the header begun in CARRY is completed from the head. -/
def resolveCarry (head : Bytes) (s : State) : State :=
  let t := parse (s.carry ++ head) s.carryGap (setCarry [] false s)
  if t.activeValid then flushSlot t
  else if t.carry.length > 0 then discardCarry .residue t
  else t

/-- Case A2 (R118): the head completes the packet in flight. -/
def completeActive (head : Bytes) (s : State) : State := flushSlot (appendPend head s)

/-- Case A0 (R119): head bytes that no packet owns. -/
def discardHead (head : Bytes) (s : State) : State :=
  if head.length > 0 then raiseEvent (discardEvent head .unowned) s else s

/-- The cases A1, A2 and A0 of DemuxPtr, chosen by the state at the start of the frame (R114). -/
def closeHead (head : Bytes) (s : State) : State :=
  if s.activeValid = false ∧ s.carry.length > 0 then resolveCarry head s
  else if s.activeValid then completeActive head s
  else discardHead head s

/-- EV_FHP_OUT_OF_RANGE when the pointer names no zone byte (R121). -/
def checkFhp (fhp : BitVec 11) (s : State) : State :=
  if Config.zone s.frameSize ≤ fhp.toNat then raiseEvent (.fhpOutOfRange fhp) s else s

/-- DemuxPtr (R114): the head closes what came before, the tail is parsed afresh (case A3, R120). -/
def demuxPtr (fhp : BitVec 11) (z : Bytes) (s : State) : State :=
  parse (tailOf s.frameSize fhp z) false (closeHead (headOf fhp z) (checkFhp fhp s))

/-- DemuxNoHdr (R122, R123). -/
def demuxNoHdr (z : Bytes) (s : State) : State :=
  if s.activeValid then appendPend z s
  else parse (s.carry ++ z) s.carryGap (setCarry [] false s)

/-- Demux (R113). -/
def demux (fhp : BitVec 11) (z : Bytes) (s : State) : State :=
  if fhp = Config.fhpNohdr then demuxNoHdr z s else demuxPtr fhp z s

/-! ### The stages of FRAME, end of stream, reset -/

/-- EV_CMD_AFTER_END and nothing else while ENDED = 1 (R108); otherwise the command's work. -/
def unlessEnded (op : BitVec 4) (work : State → State) (s : State) : State :=
  if s.ended then raiseEvent (.cmdAfterEnd op) s else work s

/-- The lines of FRAME that the frame header controls (R94, R95, R96, R110). -/
def headerStage (h : FrameHeader) (s : State) : State :=
  recordHeader h.version h.scid h.vcid (counterCheck h.ctr s)

/-- The lines of FRAME that the M-PDU header controls (R94, R110, R113). -/
def mpduStage (fhp : BitVec 11) (z : Bytes) (s : State) : State := demux fhp z (recordFhp fhp s)

/-- The work of FRAME on an accepted frame (R94). -/
def acceptFrame (f : Bytes) (s : State) : State :=
  mpduStage (fhpDecode f) (zoneOf s.frameSize f) (headerStage (decodeFrameHeader f) s)

/-- What a packet header word controls when it stands at a frame's first header position: the header begins a new
packet, so what was in progress is closed with an empty head (R114, R116, R118, R125), then the header is taken and the
rest of the buffer parsed (R127). In a state where Parse may be called the closing changes nothing (log 4). -/
def packetStage (h : PacketHeader) (rest : Bytes) (s : State) : State :=
  match parsePass h rest false (closeHead [] s) with
  | (t, some next) => parse next false t
  | (t, none) => t

/-- The slot, if valid, is flushed exactly once at the end of the stream (R106). -/
def flushIfActive (s : State) : State := if s.activeValid then flushSlot s else s

/-- Bytes left in CARRY at the end of the stream (R106). -/
def discardCarryAtEnd (s : State) : State := if s.carry.length > 0 then discardCarry .endOfStream s else s

/-- EV_REPORT with the totals at this moment (R107). -/
def raiseReport (s : State) : State := raiseEvent (.report s.cntDropped s.cntSaved s.cntCrcfail) s

/-- `ENDED <- 1`. -/
def setEnded (s : State) : State := { s with ended := true }

/-- EndOfStream (R106). -/
def endOfStream (s : State) : State := setEnded (raiseReport (discardCarryAtEnd (flushIfActive s)))

/-- ResetState (R210): every element of R46 but OUTQ. FRAME_SIZE is fixed and the port is the host's. -/
def resetState (s : State) : State :=
  { State.powerOn s.frameSize with outq := s.outq, port := s.port }

/-- ILLEGAL (R176): EV_ILLEGAL_CMD with the whole command word, and nothing else. -/
def illegalCommand (op rsv : BitVec 4) (arg : BitVec 24) (s : State) : State :=
  raiseEvent (.illegalCmd (commandWord op rsv arg)) s

end Sys2Proof.Machine
end

