-- ==== Sys2Proof/Machine/Registers.lean ====
section
/-! DEFINITION. The 32-bit register view (10_state.md R22 to R37, R174). -/

namespace Sys2Proof.Machine

/-- The value of a one-bit element in a sum. -/
def bit (b : Bool) : Nat := if b then 1 else 0

/-- CTRL (R23). -/
def regCtrl (s : State) : Word := BitVec.ofNat 32 (bit s.keepCorrupt)

/-- STATUS (R24, R174). -/
def regStatus (s : State) : Word :=
  BitVec.ofNat 32 (bit s.haveLast + 2 * bit s.activeValid + 4 * bit s.carryGap + 8 * s.carry.length + 64 * bit s.ended
    + 128 * (if s.activeValid then bit s.pendFd else 0))

/-- LAST_CTR (R25). -/
def regLastCtr (s : State) : Word := s.lastCtr.setWidth 32

/-- LAST_FHID (R26): VERSION in 15:14, SCID in 13:8, 0 in 7:6, VCID in 5:0. -/
def regLastFhid (s : State) : Word := (s.lastVer ++ s.lastScid ++ 0#2 ++ s.lastVcid).setWidth 32

/-- LAST_FHP (R26). -/
def regLastFhp (s : State) : Word := s.lastFhp.setWidth 32

/-- An active-packet register reads 0 when ACTIVE_VALID = 0 (R34). -/
def whenActive (s : State) (v : Word) : Word := if s.activeValid then v else 0#32

/-- ACTIVE_ID (R34): SHF in 17, TYPE in 16, VER in 15:13, SF in 12:11, APID in 10:0. -/
def regActiveId (s : State) : Word :=
  whenActive s ((s.pendShf ++ s.pendType ++ s.pendVer ++ s.pendSf ++ s.pendApid).setWidth 32)

/-- ACTIVE_SEQ (R34). -/
def regActiveSeq (s : State) : Word := whenActive s (s.pendCnt.setWidth 32)

/-- ACTIVE_LEN (R34). -/
def regActiveLen (s : State) : Word := whenActive s (s.pendLen.setWidth 32)

/-- ACTIVE_RX (R34). -/
def regActiveRx (s : State) : Word := whenActive s s.pendRx

/-- CARRY_W0 (R35); a byte at or beyond |CARRY| reads 0. -/
def regCarryW0 (s : State) : Word := byteAt s.carry 0 ++ byteAt s.carry 1 ++ byteAt s.carry 2 ++ byteAt s.carry 3

/-- CARRY_W1 (R35). -/
def regCarryW1 (s : State) : Word := byteAt s.carry 4 ++ 0#24

/-- GROUP_OPEN_Wk (R36): bit i is GROUP_OPEN[32k + i]; there is no APID 2047 bit, so bit 31 of W63 reads 0. -/
def regGroup (s : State) (k : Nat) : Word := s.groupOpen.extractLsb' (32 * k) 32

/-- RegView (R174): the table of R22; an unassigned index reads 0 (R37). -/
def regView (s : State) (i : BitVec 8) : Word :=
  match i.toNat with
  | 0x00 => regCtrl s
  | 0x01 => regStatus s
  | 0x02 => regLastCtr s
  | 0x03 => regLastFhid s
  | 0x04 => regLastFhp s
  | 0x05 => s.cntDropped
  | 0x06 => s.cntSaved
  | 0x07 => s.cntCrcfail
  | 0x08 => regActiveId s
  | 0x09 => regActiveSeq s
  | 0x0A => regActiveLen s
  | 0x0B => regActiveRx s
  | 0x0C => regCarryW0 s
  | 0x0D => regCarryW1 s
  | n => if 0x40 ≤ n ∧ n ≤ 0x7F then regGroup s (n - 0x40) else 0#32

end Sys2Proof.Machine
end

