-- ==== Sys2Proof/Machine/Commands.lean ====
section
/-! DEFINITION. The meanings of CFG, READ and RESET (45_host_commands.md). -/

namespace Sys2Proof.Machine

/-- CFG (R173): KEEP_CORRUPT takes ARG[0]; the other bits are ignored. -/
def execCfg (_rsv : BitVec 4) (keep : BitVec 1) (_ign : BitVec 23) (s : State) : Host.Outcome State Fault Refusal :=
  .next { s with keepCorrupt := keep = 1#1 }

/-- READ (R174): one RDATA record, no other effect (R59). -/
def execRead (_rsv : BitVec 4) (index : BitVec 8) (_ign : BitVec 16) (s : State) : Host.Outcome State Fault Refusal :=
  .next (emit (.rdata (regView s index)) s)

/-- RESET (R175). -/
def execReset (_rsv : BitVec 4) (_arg : BitVec 24) (s : State) : Host.Outcome State Fault Refusal :=
  .next (resetState s)

end Sys2Proof.Machine
end

