-- ==== Sys2Proof/Machine/Illegal.lean ====
section
/-! DEFINITION. The meanings of the ten illegal command words (45_host_commands.md R176). Each is reported in every
state, and changes nothing else. -/

namespace Sys2Proof.Machine

/-- ILLEGAL_0 (R176). -/
def execIllegal0 (rsv : BitVec 4) (arg : BitVec 24) (s : State) : Host.Outcome State Fault Refusal :=
  .next (illegalCommand 0x0#4 rsv arg s)

/-- ILLEGAL_6 (R176). -/
def execIllegal6 (rsv : BitVec 4) (arg : BitVec 24) (s : State) : Host.Outcome State Fault Refusal :=
  .next (illegalCommand 0x6#4 rsv arg s)

/-- ILLEGAL_7 (R176). -/
def execIllegal7 (rsv : BitVec 4) (arg : BitVec 24) (s : State) : Host.Outcome State Fault Refusal :=
  .next (illegalCommand 0x7#4 rsv arg s)

/-- ILLEGAL_8 (R176). -/
def execIllegal8 (rsv : BitVec 4) (arg : BitVec 24) (s : State) : Host.Outcome State Fault Refusal :=
  .next (illegalCommand 0x8#4 rsv arg s)

/-- ILLEGAL_9 (R176). -/
def execIllegal9 (rsv : BitVec 4) (arg : BitVec 24) (s : State) : Host.Outcome State Fault Refusal :=
  .next (illegalCommand 0x9#4 rsv arg s)

/-- ILLEGAL_A (R176). -/
def execIllegalA (rsv : BitVec 4) (arg : BitVec 24) (s : State) : Host.Outcome State Fault Refusal :=
  .next (illegalCommand 0xA#4 rsv arg s)

/-- ILLEGAL_B (R176). -/
def execIllegalB (rsv : BitVec 4) (arg : BitVec 24) (s : State) : Host.Outcome State Fault Refusal :=
  .next (illegalCommand 0xB#4 rsv arg s)

/-- ILLEGAL_C (R176). -/
def execIllegalC (rsv : BitVec 4) (arg : BitVec 24) (s : State) : Host.Outcome State Fault Refusal :=
  .next (illegalCommand 0xC#4 rsv arg s)

/-- ILLEGAL_D (R176). -/
def execIllegalD (rsv : BitVec 4) (arg : BitVec 24) (s : State) : Host.Outcome State Fault Refusal :=
  .next (illegalCommand 0xD#4 rsv arg s)

/-- ILLEGAL_E (R176). -/
def execIllegalE (rsv : BitVec 4) (arg : BitVec 24) (s : State) : Host.Outcome State Fault Refusal :=
  .next (illegalCommand 0xE#4 rsv arg s)

end Sys2Proof.Machine
end

