-- ==== Sys2Proof/Machine/Stream.lean ====
section
/-! DEFINITION. The meanings of the stream commands FRAME, TAIL and EOS (40_frame_reader.md). -/

namespace Sys2Proof.Machine

/-- FRAME (R94, R108): RSV and ARG are ignored (R68, R87). -/
def execFrame (_rsv : BitVec 4) (_arg : BitVec 24) (f : Bytes) (s : State) : Host.Outcome State Fault Refusal :=
  .next (unlessEnded 0x1#4 (acceptFrame f) s)

/-- TAIL (R104): the legality check comes before the ENDED check (R176). -/
def execTail (rsv : BitVec 4) (n : BitVec 24) (s : State) : Host.Outcome State Fault Refusal :=
  if n = 0#24 ∨ s.frameSize ≤ n.toNat then .next (illegalCommand 0x2#4 rsv n s)
  else .next (unlessEnded 0x2#4 (fun s => endOfStream (raiseEvent (.truncatedTail n) s)) s)

/-- EOS (R105). -/
def execEos (_rsv : BitVec 4) (_arg : BitVec 24) (s : State) : Host.Outcome State Fault Refusal :=
  .next (unlessEnded 0x3#4 endOfStream s)

end Sys2Proof.Machine
end

