-- ==== Sys2Proof/Machine/Wire.lean ====
section
/-! DEFINITION. The meanings of the wire-format rows: the stage of FRAME that each word controls. No step runs one by
itself: a word takes effect in a step only inside a whole FRAME (R111, log 2). Like the FRAME that carries it, it has no
effect but EV_CMD_AFTER_END while ENDED = 1 (log 3). -/

namespace Sys2Proof.Machine

/-- FRAME_HEADER (R95): the header's fields go to the counter check and the frame-header registers (R94, R96, R110);
the bits F<1>[7:6] and the byte F<5> are not read (R75). -/
def execFrameHeader (version : BitVec 2) (scid : BitVec 6) (_unused1 : BitVec 2) (vcid : BitVec 6) (ctr : BitVec 24)
    (_unused5 : BitVec 8) (s : State) : Host.Outcome State Fault Refusal :=
  .next (unlessEnded 0x1#4 (headerStage ⟨version, scid, vcid, ctr⟩) s)

/-- MPDU_NOHDR (R122, R123): SPARE is ignored (R77). -/
def execMpduNohdr (_spare : BitVec 5) (zone : Bytes) (s : State) : Host.Outcome State Fault Refusal :=
  .next (unlessEnded 0x1#4 (mpduStage Config.fhpNohdr zone) s)

/-- MPDU_PTR (R114, R121): SPARE is ignored (R77). -/
def execMpduPtr (_spare : BitVec 5) (fhp : BitVec 11) (zone : Bytes) (s : State) : Host.Outcome State Fault Refusal :=
  .next (unlessEnded 0x1#4 (mpduStage fhp zone) s)

/-- PH_FILL (R132): the extent is consumed, nothing is produced. -/
def execPhFill (ver : BitVec 3) (type shf : BitVec 1) (sf : BitVec 2) (cnt : BitVec 14) (lenField : BitVec 16)
    (rest : Bytes) (s : State) : Host.Outcome State Fault Refusal :=
  .next (unlessEnded 0x1#4 (packetStage ⟨ver, type, shf, Config.apidFill, sf, cnt, lenField⟩ rest) s)

/-- PH_CONT (R136), an orphan when its group is not open (R138). -/
def execPhCont (ver : BitVec 3) (type shf : BitVec 1) (apid : BitVec 11) (cnt : BitVec 14) (lenField : BitVec 16)
    (rest : Bytes) (s : State) : Host.Outcome State Fault Refusal :=
  .next (unlessEnded 0x1#4 (packetStage ⟨ver, type, shf, apid, 0#2, cnt, lenField⟩ rest) s)

/-- PH_FIRST (R134): opens the group. -/
def execPhFirst (ver : BitVec 3) (type shf : BitVec 1) (apid : BitVec 11) (cnt : BitVec 14) (lenField : BitVec 16)
    (rest : Bytes) (s : State) : Host.Outcome State Fault Refusal :=
  .next (unlessEnded 0x1#4 (packetStage ⟨ver, type, shf, apid, 1#2, cnt, lenField⟩ rest) s)

/-- PH_LAST (R137): closes the group; an orphan when it is not open (R138). -/
def execPhLast (ver : BitVec 3) (type shf : BitVec 1) (apid : BitVec 11) (cnt : BitVec 14) (lenField : BitVec 16)
    (rest : Bytes) (s : State) : Host.Outcome State Fault Refusal :=
  .next (unlessEnded 0x1#4 (packetStage ⟨ver, type, shf, apid, 2#2, cnt, lenField⟩ rest) s)

/-- PH_STANDALONE (R135): a whole group; closes any open one. -/
def execPhStandalone (ver : BitVec 3) (type shf : BitVec 1) (apid : BitVec 11) (cnt : BitVec 14) (lenField : BitVec 16)
    (rest : Bytes) (s : State) : Host.Outcome State Fault Refusal :=
  .next (unlessEnded 0x1#4 (packetStage ⟨ver, type, shf, apid, 3#2, cnt, lenField⟩ rest) s)

end Sys2Proof.Machine
end

