-- ==== Sys2Proof/Machine/Dispatch.lean ====
section
/-! DEFINITION. exec: one arm per row of opcode_table.json, each one call of its meaning. -/

namespace Sys2Proof.Machine

def exec (i : Instr) (s : State) : Host.Outcome State Fault Refusal :=
  match i with
  | .frame rsv arg f => Sys2Proof.Machine.execFrame rsv arg f s
  | .tail rsv n => Sys2Proof.Machine.execTail rsv n s
  | .eos rsv arg => Sys2Proof.Machine.execEos rsv arg s
  | .cfg rsv keep ign => Sys2Proof.Machine.execCfg rsv keep ign s
  | .read rsv index ign => Sys2Proof.Machine.execRead rsv index ign s
  | .reset rsv arg => Sys2Proof.Machine.execReset rsv arg s
  | .illegal0 rsv arg => Sys2Proof.Machine.execIllegal0 rsv arg s
  | .illegal6 rsv arg => Sys2Proof.Machine.execIllegal6 rsv arg s
  | .illegal7 rsv arg => Sys2Proof.Machine.execIllegal7 rsv arg s
  | .illegal8 rsv arg => Sys2Proof.Machine.execIllegal8 rsv arg s
  | .illegal9 rsv arg => Sys2Proof.Machine.execIllegal9 rsv arg s
  | .illegalA rsv arg => Sys2Proof.Machine.execIllegalA rsv arg s
  | .illegalB rsv arg => Sys2Proof.Machine.execIllegalB rsv arg s
  | .illegalC rsv arg => Sys2Proof.Machine.execIllegalC rsv arg s
  | .illegalD rsv arg => Sys2Proof.Machine.execIllegalD rsv arg s
  | .illegalE rsv arg => Sys2Proof.Machine.execIllegalE rsv arg s
  | .frameHeader version scid unused1 vcid ctr unused5 => Sys2Proof.Machine.execFrameHeader version scid unused1 vcid ctr unused5 s
  | .mpduNohdr spare zone => Sys2Proof.Machine.execMpduNohdr spare zone s
  | .mpduPtr spare fhp zone => Sys2Proof.Machine.execMpduPtr spare fhp zone s
  | .phFill ver type shf sf cnt lenField rest => Sys2Proof.Machine.execPhFill ver type shf sf cnt lenField rest s
  | .phCont ver type shf apid cnt lenField rest => Sys2Proof.Machine.execPhCont ver type shf apid cnt lenField rest s
  | .phFirst ver type shf apid cnt lenField rest => Sys2Proof.Machine.execPhFirst ver type shf apid cnt lenField rest s
  | .phLast ver type shf apid cnt lenField rest => Sys2Proof.Machine.execPhLast ver type shf apid cnt lenField rest s
  | .phStandalone ver type shf apid cnt lenField rest => Sys2Proof.Machine.execPhStandalone ver type shf apid cnt lenField rest s

end Sys2Proof.Machine
end

