-- ==== Sys2Proof/Machine/Step.lean ====
section
/-! DEFINITION. One step: the FPC takes the next transfer the host has presented, if there is one. -/

namespace Sys2Proof.Machine

/-- One step. With nothing presented the FPC is idle and holds its state (R204). Otherwise it takes the oldest transfer,
which is a whole command: there is no partial-frame step (R111). The decoder refuses a malformed transfer before any FPC
step (R111), and a decoded command is executed as one atomic step (R6, R61) on the state whose port no longer holds it. -/
def step (s : State) : Host.Outcome State Fault Refusal :=
  match s.port with
  | [] => .next s
  | c :: later =>
    match decode s.frameSize c.encoded with
    | .error why => .refused (.malformedTransfer why)
    | .ok i => exec i { s with port := later }

/-- `s` with a command presented next in which the FPC meets the word of opcode_table.json: the command itself, or a
whole FRAME that has the wire word at its place (log 1, log 12). -/
def State.withFetchWord (s : State) (nbits w : Nat) : State :=
  match tableEncoding s.frameSize nbits w with
  | some e => { s with port := carrier s.frameSize e :: s.port }
  | none => s

end Sys2Proof.Machine
end

