-- ==== Sys2Proof/Safety.lean ====
section
/-! DEFINITION. What claims are stated in: the invariants of 10_state.md section 6, well-formed packet records, what a
list of records adds to the counters, what becomes of a packet and of the buffer of case A1, and what a state keeps. -/

namespace Sys2Proof.Machine

/-- The slot is as ReleaseSlot leaves it (R29, R167). -/
structure SlotEmpty (s : State) : Prop where
  ver : s.pendVer = 0#3
  type : s.pendType = 0#1
  shf : s.pendShf = 0#1
  apid : s.pendApid = 0#11
  sf : s.pendSf = 0#2
  cnt : s.pendCnt = 0#14
  len : s.pendLen = 0#17
  fd : s.pendFd = false
  rx : s.pendRx = 0#32

/-- PEND_DATA holds exactly the first min(PEND_RX, PEND_LEN) bytes, within PEND_CAP (R30, R42, R49): the one form the
store has. -/
abbrev Memory.wf (s : State) : Prop := s.pendData.length = storedCount s ∧ s.pendData.length ≤ Config.pendCap

/-- The invariants that hold between commands. -/
structure StateInv (s : State) : Prop where
  /-- R7 -/
  frameSize : Config.FrameSizeLegal s.frameSize
  /-- INV1 (R40) -/
  carryEmpty : s.activeValid = true → s.carry = []
  /-- INV2 (R41) -/
  carryShort : s.carry.length ≤ 5
  /-- CARRY_GAP is a flag of CARRY's bytes (R27, R128) -/
  gapOfCarry : s.carry = [] → s.carryGap = false
  /-- INV3 (R42) -/
  store : Memory.wf s
  /-- PEND_LEN is 1..65536 while valid (R29) -/
  lenRange : s.activeValid = true → 1 ≤ s.pendLen.toNat ∧ s.pendLen.toNat ≤ Config.pendCap
  /-- INV5 (R44) -/
  notFill : s.activeValid = true → s.pendApid ≠ Config.apidFill
  /-- each field "is cleared to 0 when the slot is released" (R29) -/
  slotEmpty : s.activeValid = false → SlotEmpty s
  /-- after the end of the stream nothing is in progress (R215) -/
  endedIdle : s.ended = true → s.activeValid = false ∧ s.carry = []

/-- The condition under which the parser may be called (R127): nothing in flight, CARRY empty. -/
structure Idle (s : State) : Prop where
  active : s.activeValid = false
  carry : s.carry = []
  gap : s.carryGap = false

/-- A PKT record as R163 describes it. -/
structure PktOk (r : PktRec) : Prop where
  apid : r.apid ≠ Config.apidFill
  payload : r.payload.length = r.len.toNat - 2
  crcCalc : r.crcCalc = config.crc16Fn r.payload
  crcOk : r.crcOk = true ↔ (r.crcRx = r.crcCalc ∧ 2 ≤ r.len.toNat)
  groupEnd : r.groupEnd = true ↔ (r.sf = 2#2 ∨ r.sf = 3#2)

/-- Every PKT record of a list is well formed. -/
def RecordsOk (l : List Record) : Prop := ∀ r : PktRec, Record.pkt r ∈ l → PktOk r

/-- 1 for a PKT record: what it adds to CNT_SAVED (R162). -/
def savedBy : Record → Nat
  | .pkt _ => 1
  | _ => 0

/-- 1 for an EV_CRC_MISMATCH: what it adds to CNT_CRCFAIL (R160, R189). -/
def failedBy : Record → Nat
  | .evt (.crcMismatch _ _ _ _ _ _ _) => 1
  | _ => 0

/-- `dropped` of an EV_FRAME_SEQUENCE_GAP: what it adds to CNT_DROPPED (R97, R182). -/
def droppedBy : Record → Nat
  | .evt (.frameSequenceGap dropped _ _) => dropped.toNat
  | _ => 0

/-- The sum of a measure over a list of records. -/
def total (f : Record → Nat) (l : List Record) : Nat := (l.map f).sum

/-- The elements that only the Frame Reader, CFG and RESET write are the same in `s` and `t`. -/
structure SameReader (s t : State) : Prop where
  frameSize : t.frameSize = s.frameSize
  port : t.port = s.port
  keepCorrupt : t.keepCorrupt = s.keepCorrupt
  haveLast : t.haveLast = s.haveLast
  lastCtr : t.lastCtr = s.lastCtr
  lastVer : t.lastVer = s.lastVer
  lastScid : t.lastScid = s.lastScid
  lastVcid : t.lastVcid = s.lastVcid
  lastFhp : t.lastFhp = s.lastFhp
  cntDropped : t.cntDropped = s.cntDropped
  ended : t.ended = s.ended

/-- The header bytes of a packet followed by its data field, as they stand in the byte stream (R83). -/
def packetBytes (h : PacketHeader) (d : Bytes) : Bytes := headerBytes h ++ d

/-- A complete data field with room for a trailer, whose trailer is the CRC of the bytes before it (R149 to R151). -/
structure GoodField (d : Bytes) : Prop where
  trailer : 2 ≤ d.length
  crc : be16 d (d.length - 2) = config.crc16Fn (d.take (d.length - 2))

/-- A packet of the stream that the validation stage releases: not fill, declared length equal to its data field, and a
right CRC. -/
structure GoodPacket (h : PacketHeader) (d : Bytes) : Prop where
  apid : h.apid ≠ Config.apidFill
  len : d.length = h.lenField.toNat + 1
  field : GoodField d

/-- The PKT record of R163 for a complete packet with a right CRC, from its header and its data field. -/
def goodRecord (h : PacketHeader) (d : Bytes) (fd : Bool) : PktRec where
  apid := h.apid
  ver := h.ver
  type := h.type
  shf := h.shf
  sf := h.sf
  cnt := h.cnt
  len := BitVec.ofNat 17 d.length
  payload := d.take (d.length - 2)
  crcRx := be16 d (d.length - 2)
  crcCalc := config.crc16Fn (d.take (d.length - 2))
  crcOk := true
  framesDropped := fd
  sizeLong := false
  groupEnd := h.sf = 2#2 || h.sf = 3#2

/-- The trailer that EV_CRC_MISMATCH and a PKT record carry: the last two bytes, or 0 where L = 1 leaves no room for one
(R149, R153). -/
def trailerOf (d : Bytes) : BitVec 16 := if 2 ≤ d.length then be16 d (d.length - 2) else 0#16

/-- EV_CRC_MISMATCH for a packet of header `h` with the data field `d` (R153, R189). -/
def crcFailure (h : PacketHeader) (d : Bytes) (kept : Bool) : Record :=
  .evt (.crcMismatch h.apid h.sf h.cnt (trailerOf d) (config.crc16Fn (d.take (d.length - 2))) kept (decide (d.length < 2)))

/-- The PKT record of R163 for a packet kept with a wrong CRC, or with no trailer (R153, R161). -/
def corruptRecord (h : PacketHeader) (d : Bytes) (fd : Bool) : PktRec :=
  { goodRecord h d fd with crcRx := trailerOf d, crcOk := false }

/-- EV_PACKET_SIZE_MISMATCH(SHORT) for a packet of header `h` of which only the data bytes `d` came (R156, R188). -/
def shortEvent (h : PacketHeader) (d : Bytes) (fd : Bool) : Record :=
  .evt (.packetSizeMismatch h.apid h.sf h.cnt (BitVec.ofNat 17 (h.lenField.toNat + 1)) (BitVec.ofNat 32 d.length) .short fd)

/-- What is left once a packet of header `h` has been flushed, of which the data bytes `d` came, at most L of them: short,
it is dropped (R156); with a right CRC it is released (R161 to R163); else the failure is counted and reported, and the
packet is released under KEEP_CORRUPT only (R153, R160, R161, R170). -/
def delivered (h : PacketHeader) (d : Bytes) (fd : Bool) (s : State) : State :=
  if d.length < h.lenField.toNat + 1 then { s with outq := s.outq ++ [shortEvent h d fd] }
  else if 2 ≤ d.length ∧ be16 d (d.length - 2) = config.crc16Fn (d.take (d.length - 2)) then
    { s with cntSaved := satAdd s.cntSaved 1, outq := s.outq ++ [.pkt (goodRecord h d fd)] }
  else if s.keepCorrupt then
    { s with
      cntCrcfail := satAdd s.cntCrcfail 1, cntSaved := satAdd s.cntSaved 1
      outq := s.outq ++ [crcFailure h d true, .pkt (corruptRecord h d fd)] }
  else { s with cntCrcfail := satAdd s.cntCrcfail 1, outq := s.outq ++ [crcFailure h d false] }

/-- A header the parser makes a packet value of: not fill, and a CONT or LAST only in an open group (R134 to R138). -/
abbrev Accepted (g : BitVec 2047) (h : PacketHeader) : Prop :=
  h.apid ≠ Config.apidFill ∧ ((h.sf = 0#2 ∨ h.sf = 2#2) → groupBit g h.apid = true)

/-- GROUP_OPEN after an accepted header: FIRST opens its group, STANDALONE and LAST close it, CONT keeps it (R134 to
R137). -/
def groupsAfter (g : BitVec 2047) (h : PacketHeader) : BitVec 2047 :=
  if h.sf = 0#2 then g else setGroupBit g h.apid (decide (h.sf = 1#2))

/-- What is left of a header and the data bytes `d` after it, at most L, once its packet has been flushed: nothing of a
fill (R132), the report of an orphan (R138), the group's change and the flush of an accepted one. -/
def segmentDone (h : PacketHeader) (d : Bytes) (fd : Bool) (s : State) : State :=
  if Accepted s.groupOpen h then delivered h d fd { s with groupOpen := groupsAfter s.groupOpen h }
  else if h.apid = Config.apidFill then s
  else { s with outq := s.outq ++ [.evt (.orphanSegment h.apid h.sf h.cnt (BitVec.ofNat 17 (h.lenField.toNat + 1)))] }

/-- `CarryResolved b fd s u`: with nothing in flight and CARRY empty, `u` is what is left of `s` once case A1 has parsed
and closed the buffer `b`, which is CARRY followed by the head (R115). Any number of packets that end inside the buffer
come first, each done in its turn, the first alone with the gap flag `fd`; then the last packet, or the residue. -/
inductive CarryResolved : Bytes → Bool → State → State → Prop
  /-- 1 to 5 bytes that cannot hold a header are discarded as RESIDUE (R117). -/
  | residue (last : Bytes) (fd : Bool) (s : State) : last ≠ [] → last.length ≤ 5 →
    CarryResolved last fd s
      { s with outq := s.outq ++ [.evt (.bytesDiscarded (BitVec.ofNat 16 last.length) .residue)] }
  /-- The packet of the last header, complete or with bytes missing, is flushed at the boundary (R116). -/
  | last (h : PacketHeader) (d : Bytes) (fd : Bool) (s : State) : d.length ≤ h.lenField.toNat + 1 →
    CarryResolved (headerBytes h ++ d) fd s (segmentDone h d fd s)
  /-- A packet that ends inside the buffer is done, and the rest follows without the gap flag (R129, R140, R141). -/
  | packet (h : PacketHeader) (d rest : Bytes) (fd : Bool) (s u : State) : d.length = h.lenField.toNat + 1 → rest ≠ [] →
    CarryResolved rest false (segmentDone h d fd s) u → CarryResolved (packetBytes h d ++ rest) fd s u

/-- The PKT record of R163 for the packet in the slot, with the data field `d` its bytes have been trimmed to. -/
def slotRecord (s : State) (d : Bytes) (crcOk sizeLong : Bool) : PktRec where
  apid := s.pendApid
  ver := s.pendVer
  type := s.pendType
  shf := s.pendShf
  sf := s.pendSf
  cnt := s.pendCnt
  len := s.pendLen
  payload := d.take (d.length - 2)
  crcRx := be16 d (d.length - 2)
  crcCalc := config.crc16Fn (d.take (d.length - 2))
  crcOk := crcOk
  framesDropped := s.pendFd
  sizeLong := sizeLong
  groupEnd := s.pendSf = 2#2 || s.pendSf = 3#2

/-- EV_PACKET_SIZE_MISMATCH for the packet in the slot, with `n` bytes received (R188). -/
def slotSizeEvent (s : State) (n : BitVec 32) (dir : SizeDir) : Record :=
  .evt (.packetSizeMismatch s.pendApid s.pendSf s.pendCnt s.pendLen n dir s.pendFd)

/-- EV_REPORT with given totals (R190). -/
def reportRecord (dropped saved crcfail : BitVec 32) : Record := .evt (.report dropped saved crcfail)

/-- A counter event, the two kinds CounterCheck raises (R96). -/
def isCtrEvent : Record → Bool
  | .evt (.frameSequenceGap _ _ _) => true
  | .evt (.counterAnomaly _ _ _) => true
  | _ => false

/-- What READ answers: one RDATA record and nothing else (R174). -/
def readAnswer (s : State) (v : Word) : Host.Outcome State Fault Refusal :=
  .next { s with outq := s.outq ++ [.rdata v] }

/-- Instructions executed one after another, stopping at the first that does not answer a next state (R61). -/
def execAll : List Instr → State → Host.Outcome State Fault Refusal
  | [], s => .next s
  | i :: rest, s =>
    match exec i s with
    | .next t => execAll rest t
    | .fault r => .fault r
    | .refused r => .refused r

/-- The rest of a buffer, from a state in which the parser may be called: the instruction of the packet header at its
front, or, when the buffer is too short for a header, the buffer kept in CARRY (R127, R128). -/
def parseRest (buf : Bytes) (s : State) : Host.Outcome State Fault Refusal :=
  match decode s.frameSize (.packet buf) with
  | .ok i => exec i s
  | .error _ => .next { s with carry := buf }

/-- `s` with the packet of header `h` in the slot, `d` its data bytes received so far (R142). -/
def withInFlight (h : PacketHeader) (d : Bytes) (fd : Bool) (s : State) : State :=
  { s with
    activeValid := true, pendVer := h.ver, pendType := h.type, pendShf := h.shf, pendApid := h.apid, pendSf := h.sf
    pendCnt := h.cnt, pendLen := BitVec.ofNat 17 (h.lenField.toNat + 1), pendFd := fd, pendData := d
    pendRx := BitVec.ofNat 32 d.length }

end Sys2Proof.Machine
end

