-- ==== Sys2Proof/Certificates/Slice0/Obligations.lean ====
section
/-! DEFINITION. The statements for the provers. Each docstring names the rules of spec/ it comes from; where one rests
on a choice of the model, it names the log entry. -/

open Sys2Proof Sys2Proof.Machine

/-! ### Encodings and the step -/

/-- Decoding the encoding of any well-formed instruction, of any row and with any operands, gives it back
(30_encoding.md sections 1 to 4). -/
def Obligations.DecodeOfEncodeIsTheInstruction : Prop :=
  ∀ (frameSize : Nat) (i : Instr), i.WellFormed frameSize → decode frameSize (encode i) = .ok i

/-- Whatever the decoder accepts is a well-formed instruction whose encoding is the very input: no bit is dropped, and no
two inputs are read alike (30_encoding.md sections 1 to 4). -/
def Obligations.EncodeOfDecodeIsTheTransfer : Prop :=
  ∀ (frameSize : Nat) (t : Encoded) (i : Instr), decode frameSize t = .ok i → i.WellFormed frameSize ∧ encode i = t

/-- Words written out from the spec: V-CMD-1 to V-CMD-4, TAIL 20 of program S8, V-HDR-1, the M-PDU words of V-FHP-1 and
V-FHP-3, V-HDR-5, V-HDR-6, V-HDR-7. -/
def Obligations.SpecWordsDecodeToTheirInstructions : Prop :=
  decode 32 (.command 0xFFFFFF04#32 []) = .ok (.cfg 0#4 1#1 0x7FFFFF#23) ∧
  decode 32 (.command 0x12345605#32 []) = .ok (.read 0#4 0x56#8 0x1234#16) ∧
  decode 32 (.command 0x000000F6#32 []) = .ok (.illegal6 0xF#4 0#24) ∧
  decode 32 (.command 0x00001402#32 []) = .ok (.tail 0#4 20#24) ∧
  decode 32 (.command 0x000000F3#32 []) = .ok (.eos 0xF#4 0#24) ∧
  decode 32 (.tfh [0x6A#8, 0x05#8, 0x00#8, 0x01#8, 0x02#8, 0x00#8]) = .ok (.frameHeader 1#2 0x2A#6 0#2 5#6 0x000102#24 0#8) ∧
  decode 9 (.mpdu [0x00#8, 0x06#8, 0xAB#8]) = .ok (.mpduPtr 0#5 6#11 [0xAB#8]) ∧
  decode 9 (.mpdu [0xFF#8, 0xFF#8, 0xAB#8]) = .ok (.mpduNohdr 31#5 [0xAB#8]) ∧
  decode 32 (.packet [0xFF#8, 0xFF#8, 0xFF#8, 0xFF#8, 0xFF#8, 0xFF#8]) =
    .ok (.phFill 7#3 1#1 1#1 3#2 0x3FFF#14 0xFFFF#16 []) ∧
  decode 32 (.packet [0x1F#8, 0xFE#8, 0x7F#8, 0xFF#8, 0x00#8, 0x00#8]) =
    .ok (.phFirst 0#3 1#1 1#1 0x7FE#11 0x3FFF#14 0#16 []) ∧
  decode 32 (.packet [0xE0#8, 0x00#8, 0x80#8, 0x01#8, 0x12#8, 0x34#8]) =
    .ok (.phLast 7#3 0#1 0#1 0x000#11 1#14 0x1234#16 [])

/-- R67: every command word decodes, by OP alone, when it comes with the operand its OP carries. -/
def Obligations.EveryCommandWordDecodesByOp : Prop :=
  ∀ (frameSize : Nat) (op rsv : BitVec 4) (arg : BitVec 24) (f : Bytes),
    f.length = (if op = 1#4 then frameSize else 0) →
    ∃ i, decode frameSize (.command (commandWord op rsv arg) f) = .ok i ∧
      (op.toNat, i) ∈ [(0x0, Instr.illegal0 rsv arg), (0x1, .frame rsv arg f), (0x2, .tail rsv arg), (0x3, .eos rsv arg),
        (0x4, .cfg rsv (arg.extractLsb' 0 1) (arg.extractLsb' 1 23)),
        (0x5, .read rsv (arg.extractLsb' 0 8) (arg.extractLsb' 8 16)), (0x6, .illegal6 rsv arg), (0x7, .illegal7 rsv arg),
        (0x8, .illegal8 rsv arg), (0x9, .illegal9 rsv arg), (0xA, .illegalA rsv arg), (0xB, .illegalB rsv arg),
        (0xC, .illegalC rsv arg), (0xD, .illegalD rsv arg), (0xE, .illegalE rsv arg), (0xF, .reset rsv arg)]

/-- R69 and R111, in the model's terms: step refuses a FRAME transfer with an operand of another length than FRAME_SIZE
by the model's name for it (log 11), so that no FPC step happens, and takes one of FRAME_SIZE bytes from the model's own
port (log 1). -/
def Obligations.FrameOfAnotherLengthIsRefused : Prop :=
  ∀ (s : State) (rsv : BitVec 4) (arg : BitVec 24) (f : Bytes) (later : List Command),
    s.port = ⟨commandWord 1#4 rsv arg, f⟩ :: later →
    (f.length ≠ s.frameSize → step s = .refused (.malformedTransfer .frameOperandLength)) ∧
    (f.length = s.frameSize → step s = exec (.frame rsv arg f) { s with port := later })

/-- A step takes the oldest transfer presented and is exec of the instruction it decodes to, on the state whose port no
longer holds it; that instruction is a whole command, never a part of a frame (R111); with nothing presented the state is
held (R6, R21, R61, R204; the port is the model's own, log 1). -/
def Obligations.StepExecutesTheNextTransfer : Prop :=
  (∀ (s : State) (c : Command) (later : List Command) (i : Instr),
    s.port = c :: later → decode s.frameSize c.encoded = .ok i →
    step s = exec i { s with port := later } ∧ encode i = .command c.word c.operand) ∧
  (∀ s : State, s.port = [] → step s = .next s)

/-! ### Invariants and whole-machine rules -/

/-- INV1, INV2, INV3, INV5 and R215's end state: the power-on state has them (R210, R212; the invariants R40 to R44 are
10_state.md's own inferences, marked "derived" there; the form of INV3 is log 7's). -/
def Obligations.PowerOnHasTheInvariants : Prop :=
  (∀ n : Nat, Config.FrameSizeLegal n → StateInv (State.powerOn n)) ∧ StateInv State.reset

/-- Every step keeps the invariants of 10_state.md section 6, from every state that has them, and so does every
instruction by itself (R40, R41, R42, R44 and R126 are the spec's own inferences, marked "derived" there; R210, R215; the
wire words as instructions are log 2's). -/
def Obligations.EveryStepKeepsTheInvariants : Prop :=
  (∀ s t : State, StateInv s → step s = .next t → StateInv t) ∧
  (∀ (i : Instr) (s t : State), StateInv s → exec i s = .next t → StateInv t)

/-- Every PKT record the machine appends is as R163 describes it: not fill, LEN - 2 payload bytes, CRC_CALC the CRC of
the payload, CRC_OK and GROUP_END as defined (R163). -/
def Obligations.EveryPktRecordIsWellFormed : Prop :=
  ∀ s t : State, StateInv s → RecordsOk s.outq → step s = .next t → RecordsOk t.outq

/-- OUTQ is append-only under every instruction, RESET included (R38). -/
def Obligations.OutqOnlyGrows : Prop :=
  ∀ (i : Instr) (s : State), ∃ t l, exec i s = .next t ∧ t.outq = s.outq ++ l

/-- CNT_SAVED counts the PKT records, CNT_CRCFAIL the EV_CRC_MISMATCH records and CNT_DROPPED the frames reported in
EV_FRAME_SEQUENCE_GAP records, for every instruction but RESET (R103, R160, R162). -/
def Obligations.CountersCountTheRecords : Prop :=
  ∀ (i : Instr) (s : State), (∀ rsv arg, i ≠ .reset rsv arg) →
    ∃ t l, exec i s = .next t ∧ t.outq = s.outq ++ l ∧ t.cntSaved = satAdd s.cntSaved (total savedBy l) ∧
      t.cntCrcfail = satAdd s.cntCrcfail (total failedBy l) ∧ t.cntDropped = satAdd s.cntDropped (total droppedBy l)

/-- Bounded work (R223, an inference the spec marks "derived"): a FRAME appends at most 3 records for each of at most
floor((ZONE + 5) / 6) + 2 headers and 6 more, TAIL and EOS at most 6, READ 1, CFG and RESET none, an illegal command 1,
and any stream command after the end 1. -/
def Obligations.RecordsPerCommandAreBounded : Prop :=
  (∀ (rsv : BitVec 4) (arg : BitVec 24) (f : Bytes) (s : State), f.length = s.frameSize → s.carry.length ≤ 5 →
    ∃ t, exec (.frame rsv arg f) s = .next t ∧
      t.outq.length ≤ s.outq.length + (3 * ((Config.zone s.frameSize + 5) / 6 + 2) + 6)) ∧
  (∀ (rsv : BitVec 4) (n arg : BitVec 24) (s : State),
    (∃ t, exec (.tail rsv n) s = .next t ∧ t.outq.length ≤ s.outq.length + 6) ∧
    (∃ t, exec (.eos rsv arg) s = .next t ∧ t.outq.length ≤ s.outq.length + 6)) ∧
  (∀ (rsv : BitVec 4) (arg : BitVec 24) (keep : BitVec 1) (k : BitVec 23) (index : BitVec 8) (j : BitVec 16) (s : State),
    (∃ t, exec (.read rsv index j) s = .next t ∧ t.outq.length = s.outq.length + 1) ∧
    (∃ t, exec (.cfg rsv keep k) s = .next t ∧ t.outq = s.outq) ∧
    (∃ t, exec (.reset rsv arg) s = .next t ∧ t.outq = s.outq) ∧
    (∀ i ∈ [Instr.illegal0 rsv arg, .illegal6 rsv arg, .illegal7 rsv arg, .illegal8 rsv arg, .illegal9 rsv arg,
        .illegalA rsv arg, .illegalB rsv arg, .illegalC rsv arg, .illegalD rsv arg, .illegalE rsv arg],
      ∃ t, exec i s = .next t ∧ t.outq.length = s.outq.length + 1)) ∧
  (∀ (rsv : BitVec 4) (arg : BitVec 24) (f : Bytes) (s : State), s.ended = true →
    (∃ t, exec (.frame rsv arg f) s = .next t ∧ t.outq.length = s.outq.length + 1) ∧
    (∃ t, exec (.tail rsv arg) s = .next t ∧ t.outq.length = s.outq.length + 1) ∧
    (∃ t, exec (.eos rsv arg) s = .next t ∧ t.outq.length = s.outq.length + 1))

/-- Only CFG and RESET write CTRL (R200), and no instruction changes FRAME_SIZE or the port (R7, log 1, log 5). -/
def Obligations.OnlyCfgAndResetWriteCtrl : Prop :=
  ∀ (i : Instr) (s : State), ∃ t, exec i s = .next t ∧ t.frameSize = s.frameSize ∧ t.port = s.port ∧
    ((∀ rsv keep ign, i ≠ .cfg rsv keep ign) → (∀ rsv arg, i ≠ .reset rsv arg) → t.keepCorrupt = s.keepCorrupt)

/-- While ENDED = 1, FRAME, a legal TAIL and EOS each append EV_CMD_AFTER_END with their OP and change nothing else
(R108, R191). -/
def Obligations.StreamCommandsAfterEndChangeNothing : Prop :=
  ∀ (rsv : BitVec 4) (n arg : BitVec 24) (f : Bytes) (s : State), s.ended = true →
    exec (.frame rsv arg f) s = .next { s with outq := s.outq ++ [.evt (.cmdAfterEnd 1#4)] } ∧
    exec (.eos rsv arg) s = .next { s with outq := s.outq ++ [.evt (.cmdAfterEnd 3#4)] } ∧
    (1 ≤ n.toNat → n.toNat < s.frameSize →
      exec (.tail rsv n) s = .next { s with outq := s.outq ++ [.evt (.cmdAfterEnd 2#4)] })

/-- The instruction of a wire word, executed by itself after the end, is turned away like the FRAME that carries the word:
the model's choice (log 3). -/
def Obligations.WireWordsAfterEndChangeNothing : Prop :=
  ∀ (s : State) (b : Bytes) (i : Instr), s.ended = true →
    (decode s.frameSize (.tfh b) = .ok i ∨ decode s.frameSize (.mpdu b) = .ok i ∨ decode s.frameSize (.packet b) = .ok i) →
    exec i s = .next { s with outq := s.outq ++ [.evt (.cmdAfterEnd 1#4)] }

/-- The event codes of the table in R180, and the values of `reason` and `dir` (R185, R188). -/
def Obligations.EventCodesAreTheStatedOnes : Prop :=
  (∀ e : Event, (eventCode e).toNat ∈ [0x01, 0x02, 0x03, 0x04, 0x05, 0x07, 0x08, 0x09, 0x0A, 0x0B, 0x0C]) ∧
  (∀ n m k : BitVec 24, eventCode (.truncatedTail n) = 0x01#8 ∧ eventCode (.frameSequenceGap n m k) = 0x02#8 ∧
    eventCode (.counterAnomaly n m k) = 0x03#8) ∧
  (∀ (p a : BitVec 11) (n : BitVec 16) (r : DiscardReason) (sf : BitVec 2) (cnt : BitVec 14) (len : BitVec 17),
    eventCode (.fhpOutOfRange p) = 0x04#8 ∧ eventCode (.bytesDiscarded n r) = 0x05#8 ∧
    eventCode (.orphanSegment a sf cnt len) = 0x07#8) ∧
  (∀ (a : BitVec 11) (sf : BitVec 2) (cnt : BitVec 14) (len : BitVec 17) (rx x y : BitVec 32) (d : SizeDir)
    (c k : BitVec 16) (u v : Bool) (op : BitVec 4) (w : Word),
    eventCode (.packetSizeMismatch a sf cnt len rx d u) = 0x08#8 ∧ eventCode (.crcMismatch a sf cnt c k u v) = 0x09#8 ∧
    eventCode (.report rx x y) = 0x0A#8 ∧ eventCode (.cmdAfterEnd op) = 0x0B#8 ∧ eventCode (.illegalCmd w) = 0x0C#8) ∧
  reasonValue .unowned = 0#2 ∧ reasonValue .residue = 1#2 ∧ reasonValue .endOfStream = 2#2 ∧
  dirValue .short = 0#1 ∧ dirValue .long = 1#1

/-! ### Host commands -/

/-- CFG (R173): KEEP_CORRUPT takes ARG[0], and nothing else changes. -/
def Obligations.CfgSetsKeepCorruptOnly : Prop :=
  ∀ (rsv : BitVec 4) (ign : BitVec 23) (s : State),
    exec (.cfg rsv 1#1 ign) s = .next { s with keepCorrupt := true } ∧
    exec (.cfg rsv 0#1 ign) s = .next { s with keepCorrupt := false }

/-- RESET (R175, R210): every element at its reset value but OUTQ. That PEND_DATA lists no byte is the model's form of
"unspecified, never read" (log 7); FRAME_SIZE and the port are not the FPC's state (log 1, log 5). -/
def Obligations.ResetRestoresPowerOnButKeepsOutq : Prop :=
  ∀ (rsv : BitVec 4) (arg : BitVec 24) (s : State), ∃ t, exec (.reset rsv arg) s = .next t ∧
    t.outq = s.outq ∧ t.port = s.port ∧ t.frameSize = s.frameSize ∧ t.keepCorrupt = false ∧ t.haveLast = false ∧
    t.lastCtr = 0#24 ∧ t.lastVer = 0#2 ∧ t.lastScid = 0#6 ∧ t.lastVcid = 0#6 ∧ t.lastFhp = 0#11 ∧ t.carry = [] ∧
    t.carryGap = false ∧ t.activeValid = false ∧ SlotEmpty t ∧ t.pendData = [] ∧
    (∀ a : BitVec 11, groupBit t.groupOpen a = false) ∧
    t.cntDropped = 0#32 ∧ t.cntSaved = 0#32 ∧ t.cntCrcfail = 0#32 ∧ t.ended = false

/-- Illegal words (R176): the ten illegal OPs, and TAIL with n = 0 or n >= FRAME_SIZE, append EV_ILLEGAL_CMD with the
whole word in every state, and change nothing else. -/
def Obligations.IllegalCommandsAreReportedOnly : Prop :=
  (∀ (rsv : BitVec 4) (arg : BitVec 24) (s : State) (i : Instr) (op : Nat),
    (op, i) ∈ [(0x0, Instr.illegal0 rsv arg), (0x6, .illegal6 rsv arg), (0x7, .illegal7 rsv arg), (0x8, .illegal8 rsv arg),
      (0x9, .illegal9 rsv arg), (0xA, .illegalA rsv arg), (0xB, .illegalB rsv arg), (0xC, .illegalC rsv arg),
      (0xD, .illegalD rsv arg), (0xE, .illegalE rsv arg)] →
    exec i s = .next { s with
      outq := s.outq ++ [.evt (.illegalCmd (BitVec.ofNat 32 (arg.toNat * 256 + rsv.toNat * 16 + op)))] }) ∧
  (∀ (rsv : BitVec 4) (n : BitVec 24) (s : State), n.toNat = 0 ∨ s.frameSize ≤ n.toNat →
    exec (.tail rsv n) s = .next { s with
      outq := s.outq ++ [.evt (.illegalCmd (BitVec.ofNat 32 (n.toNat * 256 + rsv.toNat * 16 + 2)))] })

/-- Reserved and ignored bits of the command words have no effect (R87). -/
def Obligations.IgnoredCommandBitsHaveNoEffect : Prop :=
  ∀ (rsv rsv' : BitVec 4) (arg arg' : BitVec 24) (f : Bytes) (keep : BitVec 1) (k k' : BitVec 23) (index : BitVec 8)
    (j j' : BitVec 16) (n : BitVec 24) (s : State),
    exec (.frame rsv arg f) s = exec (.frame rsv' arg' f) s ∧ exec (.eos rsv arg) s = exec (.eos rsv' arg') s ∧
    exec (.reset rsv arg) s = exec (.reset rsv' arg') s ∧ exec (.cfg rsv keep k) s = exec (.cfg rsv' keep k') s ∧
    exec (.read rsv index j) s = exec (.read rsv' index j') s ∧
    (1 ≤ n.toNat → n.toNat < s.frameSize → exec (.tail rsv n) s = exec (.tail rsv' n) s)

/-- READ appends one RDATA record and changes nothing else, so reading twice answers the same value twice (R59, R174). -/
def Obligations.ReadHasNoSideEffect : Prop :=
  ∀ (rsv : BitVec 4) (index : BitVec 8) (ign : BitVec 16) (s : State), ∃ v,
    exec (.read rsv index ign) s = readAnswer s v ∧
    ∀ l : List Record, exec (.read rsv index ign) { s with outq := l } = readAnswer { s with outq := l } v

/-- STATUS (R24): each bit reflects its element. -/
def Obligations.StatusReadsTheFlags : Prop :=
  ∀ (rsv : BitVec 4) (ign : BitVec 16) (s : State), s.carry.length ≤ 5 → ∃ v,
    exec (.read rsv 0x01#8 ign) s = readAnswer s v ∧ v.getLsbD 0 = s.haveLast ∧ v.getLsbD 1 = s.activeValid ∧
    v.getLsbD 2 = s.carryGap ∧ (v.extractLsb' 3 3).toNat = s.carry.length ∧ v.getLsbD 6 = s.ended ∧
    v.getLsbD 7 = (s.activeValid && s.pendFd) ∧ v.toNat < 256

/-- The active-packet registers (R34): fields of the slot, 0 when nothing is in flight. -/
def Obligations.ActiveRegistersReadTheSlot : Prop :=
  ∀ (rsv : BitVec 4) (ign : BitVec 16) (s : State),
    (s.activeValid = false → ∀ index ∈ [0x08#8, 0x09#8, 0x0A#8, 0x0B#8], exec (.read rsv index ign) s = readAnswer s 0#32) ∧
    (s.activeValid = true →
      (∃ v, exec (.read rsv 0x08#8 ign) s = readAnswer s v ∧ v.extractLsb' 0 11 = s.pendApid ∧
        v.extractLsb' 11 2 = s.pendSf ∧ v.extractLsb' 13 3 = s.pendVer ∧ v.extractLsb' 16 1 = s.pendType ∧
        v.extractLsb' 17 1 = s.pendShf ∧ v.extractLsb' 18 14 = 0#14) ∧
      (∃ v, exec (.read rsv 0x09#8 ign) s = readAnswer s v ∧ v.toNat = s.pendCnt.toNat) ∧
      (∃ v, exec (.read rsv 0x0A#8 ign) s = readAnswer s v ∧ v.toNat = s.pendLen.toNat) ∧
      exec (.read rsv 0x0B#8 ign) s = readAnswer s s.pendRx)

/-- CARRY_W0 and CARRY_W1 (R35): byte j of CARRY from the high end, 0 beyond |CARRY|. -/
def Obligations.CarryRegistersReadCarry : Prop :=
  ∀ (rsv : BitVec 4) (ign : BitVec 16) (s : State), ∃ v w,
    exec (.read rsv 0x0C#8 ign) s = readAnswer s v ∧ exec (.read rsv 0x0D#8 ign) s = readAnswer s w ∧
    (∀ j, j < 4 → v.extractLsb' (24 - 8 * j) 8 = s.carry.getD j 0#8) ∧
    w.extractLsb' 24 8 = s.carry.getD 4 0#8 ∧ w.extractLsb' 0 24 = 0#24

/-- GROUP_OPEN_Wk (R36): bit i is GROUP_OPEN[32k + i]; bit 31 of W63 reads 0. -/
def Obligations.GroupRegistersReadTheTable : Prop :=
  ∀ (rsv : BitVec 4) (ign : BitVec 16) (s : State) (k : Nat), k < 64 → ∃ v,
    exec (.read rsv (BitVec.ofNat 8 (0x40 + k)) ign) s = readAnswer s v ∧
    ∀ i, i < 32 → v.getLsbD i = if 32 * k + i ≤ 2046 then groupBit s.groupOpen (BitVec.ofNat 11 (32 * k + i)) else false

/-- CTRL, LAST_CTR, LAST_FHID, LAST_FHP and the three counters (R23, R25, R26, R32), and the unassigned indices (R37). -/
def Obligations.OtherRegistersReadTheirElements : Prop :=
  ∀ (rsv : BitVec 4) (ign : BitVec 16) (s : State),
    exec (.read rsv 0x00#8 ign) s = readAnswer s (if s.keepCorrupt then 1#32 else 0#32) ∧
    exec (.read rsv 0x02#8 ign) s = readAnswer s (BitVec.ofNat 32 s.lastCtr.toNat) ∧
    exec (.read rsv 0x03#8 ign) s =
      readAnswer s (BitVec.ofNat 32 (s.lastVer.toNat * 2 ^ 14 + s.lastScid.toNat * 2 ^ 8 + s.lastVcid.toNat)) ∧
    exec (.read rsv 0x04#8 ign) s = readAnswer s (BitVec.ofNat 32 s.lastFhp.toNat) ∧
    exec (.read rsv 0x05#8 ign) s = readAnswer s s.cntDropped ∧ exec (.read rsv 0x06#8 ign) s = readAnswer s s.cntSaved ∧
    exec (.read rsv 0x07#8 ign) s = readAnswer s s.cntCrcfail ∧
    ∀ index : BitVec 8, (0x0E ≤ index.toNat ∧ index.toNat ≤ 0x3F ∨ 0x80 ≤ index.toNat) →
      exec (.read rsv index ign) s = readAnswer s 0#32

/-! ### Frame Reader -/

/-- A FRAME on an open stream is its frame header's instruction, then its M-PDU header's: the header word answers a
state that holds the header's fields, and the frame goes on from there (R94, R101, R110; the words as instructions are
the model's, log 2). -/
def Obligations.FrameIsHeaderWordThenMpduWord : Prop :=
  ∀ (rsv : BitVec 4) (arg : BitVec 24) (f : Bytes) (s : State) (i j : Instr),
    s.ended = false → f.length = s.frameSize → decode s.frameSize (.tfh (f.take 6)) = .ok i →
    decode s.frameSize (.mpdu (f.drop 6)) = .ok j →
    ∃ u, exec i s = .next u ∧ exec (.frame rsv arg f) s = exec j u ∧ u.haveLast = true ∧ u.lastCtr = be24 f 2 ∧
      u.lastVer = (byteAt f 0).extractLsb' 6 2 ∧ u.lastScid = (byteAt f 0).extractLsb' 0 6 ∧
      u.lastVcid = (byteAt f 1).extractLsb' 0 6

/-- A frame header word on an open stream completes and writes the Frame Reader's elements (R96 to R101, R103, R110):
its fields go to their registers, CNT_DROPPED grows in a forward gap only, at most one record is appended and it is a
counter event, and nothing else changes but the two flags that Degrade sets. The word as an instruction is the model's
(log 2). -/
def Obligations.FrameHeaderWordUpdatesTheReader : Prop :=
  ∀ (version : BitVec 2) (scid : BitVec 6) (unused1 : BitVec 2) (vcid : BitVec 6) (ctr : BitVec 24) (unused5 : BitVec 8)
    (s : State), s.ended = false →
    ∃ c, exec (.frameHeader version scid unused1 vcid ctr unused5) s = .next { s with
        haveLast := true, lastCtr := ctr, lastVer := version, lastScid := scid, lastVcid := vcid, outq := s.outq ++ c
        cntDropped := if s.haveLast = true ∧ s.lastCtr.toNat + 1 < ctr.toNat
          then satAdd s.cntDropped (ctr.toNat - s.lastCtr.toNat - 1) else s.cntDropped
        pendFd := s.pendFd || (s.activeValid && !c.isEmpty)
        carryGap := s.carryGap || (decide (s.carry ≠ []) && !c.isEmpty) } ∧
      c.length ≤ 1 ∧ (∀ r ∈ c, isCtrEvent r = true) ∧
      (c ≠ [] ↔ s.haveLast = true ∧ (s.lastCtr.toNat + 1) % 2 ^ 24 ≠ ctr.toNat)

/-- The frame of the M-PDU and packet words (R94, R110, R200): they complete in every state, and write none of the
elements of the Frame Reader, CTRL, CNT_DROPPED and ENDED, but that an M-PDU word on an open stream puts its FHP in
LAST_FHP. The words as instructions are the model's (log 2). -/
def Obligations.MpduAndPacketWordsKeepTheReader : Prop :=
  (∀ (spare : BitVec 5) (z : Bytes) (s : State), s.ended = false →
    ∃ t, exec (.mpduNohdr spare z) s = .next t ∧ t.lastFhp = Config.fhpNohdr ∧
      SameReader { s with lastFhp := Config.fhpNohdr } t) ∧
  (∀ (spare : BitVec 5) (fhp : BitVec 11) (z : Bytes) (s : State), s.ended = false →
    ∃ t, exec (.mpduPtr spare fhp z) s = .next t ∧ t.lastFhp = fhp ∧ SameReader { s with lastFhp := fhp } t) ∧
  (∀ (h : PacketHeader) (rest : Bytes) (s : State), ∃ t, exec (decodePh h rest) s = .next t ∧ SameReader s t)

/-- The first frame (R102): nothing is compared, counted, reported or degraded; the M-PDU part runs on a state in which
only the Frame Reader's registers are new. The M-PDU part is written as the M-PDU word's
instruction, which is the model's (log 2). -/
def Obligations.FirstFrameIsNotCompared : Prop :=
  ∀ (rsv : BitVec 4) (arg : BitVec 24) (f : Bytes) (s : State) (j : Instr),
    s.ended = false → s.haveLast = false → decode s.frameSize (.mpdu (f.drop 6)) = .ok j → f.length = s.frameSize →
    exec (.frame rsv arg f) s = exec j { s with
      haveLast := true, lastCtr := be24 f 2, lastVer := (byteAt f 0).extractLsb' 6 2
      lastScid := (byteAt f 0).extractLsb' 0 6, lastVcid := (byteAt f 1).extractLsb' 0 6 }

/-- In sequence, the 24-bit wrap included (R98): no drop, no event, nothing degraded. The M-PDU part is written as the M-PDU word's
instruction, which is the model's (log 2). -/
def Obligations.FrameInSequenceCountsNothing : Prop :=
  ∀ (rsv : BitVec 4) (arg : BitVec 24) (f : Bytes) (s : State) (j : Instr),
    s.ended = false → s.haveLast = true → (s.lastCtr.toNat + 1) % 2 ^ 24 = (be24 f 2).toNat →
    decode s.frameSize (.mpdu (f.drop 6)) = .ok j → f.length = s.frameSize →
    exec (.frame rsv arg f) s = exec j { s with
      lastCtr := be24 f 2, lastVer := (byteAt f 0).extractLsb' 6 2
      lastScid := (byteAt f 0).extractLsb' 0 6, lastVcid := (byteAt f 1).extractLsb' 0 6 }

/-- A forward gap (R97, R100): the missing frames are counted and reported, what is being assembled is degraded, and
the frame goes on; reassembly is not reset. The M-PDU part is written as the M-PDU word's
instruction, which is the model's (log 2). -/
def Obligations.ForwardGapIsCountedAndDegrades : Prop :=
  ∀ (rsv : BitVec 4) (arg : BitVec 24) (f : Bytes) (s : State) (j : Instr),
    s.ended = false → s.haveLast = true → s.lastCtr.toNat + 1 < (be24 f 2).toNat →
    decode s.frameSize (.mpdu (f.drop 6)) = .ok j → f.length = s.frameSize →
    exec (.frame rsv arg f) s = exec j { s with
      lastCtr := be24 f 2, lastVer := (byteAt f 0).extractLsb' 6 2
      lastScid := (byteAt f 0).extractLsb' 0 6, lastVcid := (byteAt f 1).extractLsb' 0 6
      cntDropped := satAdd s.cntDropped ((be24 f 2).toNat - s.lastCtr.toNat - 1)
      outq := s.outq ++ [.evt (.frameSequenceGap
        (BitVec.ofNat 24 ((be24 f 2).toNat - s.lastCtr.toNat - 1)) s.lastCtr (be24 f 2))]
      pendFd := s.pendFd || s.activeValid, carryGap := s.carryGap || decide (s.carry ≠ []) }

/-- A counter anomaly (R99, R100): reported with the modular delta, nothing counted, what is being assembled degraded. The M-PDU part is written as the M-PDU word's
instruction, which is the model's (log 2). -/
def Obligations.CounterAnomalyCountsNothingButDegrades : Prop :=
  ∀ (rsv : BitVec 4) (arg : BitVec 24) (f : Bytes) (s : State) (j : Instr),
    s.ended = false → s.haveLast = true → (be24 f 2).toNat ≤ s.lastCtr.toNat →
    ¬ (s.lastCtr = 0xFFFFFF#24 ∧ be24 f 2 = 0#24) →
    decode s.frameSize (.mpdu (f.drop 6)) = .ok j → f.length = s.frameSize →
    exec (.frame rsv arg f) s = exec j { s with
      lastCtr := be24 f 2, lastVer := (byteAt f 0).extractLsb' 6 2
      lastScid := (byteAt f 0).extractLsb' 0 6, lastVcid := (byteAt f 1).extractLsb' 0 6
      outq := s.outq ++ [.evt (.counterAnomaly s.lastCtr (be24 f 2)
        (BitVec.ofNat 24 (2 ^ 24 + (be24 f 2).toNat - s.lastCtr.toNat)))]
      pendFd := s.pendFd || s.activeValid, carryGap := s.carryGap || decide (s.carry ≠ []) }

/-- Every accepted FRAME answers a state with LAST_CTR, HAVE_LAST, LAST_FHP and the header registers of that frame,
whatever the counter check found (R101, R110), CNT_DROPPED grown by a forward gap only (R103), and its counter event, if
any, before every other record (R94, R197). -/
def Obligations.AcceptedFrameUpdatesTheReader : Prop :=
  ∀ (rsv : BitVec 4) (arg : BitVec 24) (f : Bytes) (s : State), s.ended = false →
    ∃ t c l, exec (.frame rsv arg f) s = .next t ∧ t.haveLast = true ∧ t.lastCtr = be24 f 2 ∧
      t.lastVer = (byteAt f 0).extractLsb' 6 2 ∧ t.lastScid = (byteAt f 0).extractLsb' 0 6 ∧
      t.lastVcid = (byteAt f 1).extractLsb' 0 6 ∧ t.lastFhp.toNat = (be16 f 6).toNat % 2048 ∧
      t.cntDropped = (if s.haveLast = true ∧ s.lastCtr.toNat + 1 < (be24 f 2).toNat
        then satAdd s.cntDropped ((be24 f 2).toNat - s.lastCtr.toNat - 1) else s.cntDropped) ∧
      t.outq = s.outq ++ c ++ l ∧ c.length ≤ 1 ∧ (∀ r ∈ c, isCtrEvent r = true) ∧ (∀ r ∈ l, isCtrEvent r = false)

/-- The bits F<1>[7:6], the byte F<5> and the M-PDU SPARE bits are read by no rule (R75, R77, R88). -/
def Obligations.UnreadFrameBitsHaveNoEffect : Prop :=
  ∀ (rsv : BitVec 4) (arg : BitVec 24) (f f' : Bytes) (s : State), f.length = f'.length →
    (∀ k, k ≠ 1 → k ≠ 5 → k ≠ 6 → byteAt f k = byteAt f' k) →
    (byteAt f 1).extractLsb' 0 6 = (byteAt f' 1).extractLsb' 0 6 →
    (byteAt f 6).extractLsb' 0 3 = (byteAt f' 6).extractLsb' 0 3 →
    exec (.frame rsv arg f) s = exec (.frame rsv arg f') s

/-- VERSION, SCID and VCID gate nothing: two frames that differ in bytes 0 and 1 only have the same effect but for the
register LAST_FHID (R76, R109). -/
def Obligations.ChannelFieldsReachOnlyLastFhid : Prop :=
  ∀ (rsv : BitVec 4) (arg : BitVec 24) (a b a' b' : Byte) (f : Bytes) (s : State), s.ended = false →
    ∃ t, exec (.frame rsv arg (a :: b :: f)) s = .next t ∧
      exec (.frame rsv arg (a' :: b' :: f)) s = .next { t with
        lastVer := a'.extractLsb' 6 2, lastScid := a'.extractLsb' 0 6, lastVcid := b'.extractLsb' 0 6 }

/-! ### End of stream and the validation stage -/

/-- What a TAIL or an EOS on an open stream leaves: nothing in flight, CARRY empty, ENDED set, GROUP_OPEN as it was, and
EV_REPORT with the totals as the last record (R107, R215); TAIL's notice comes first (R181, R197). -/
def Obligations.EndOfStreamReportsAndLeavesNothing : Prop :=
  ∀ (rsv : BitVec 4) (n arg : BitVec 24) (s : State), s.ended = false →
    (∃ t l, exec (.eos rsv arg) s = .next t ∧ t.outq = s.outq ++ l ++ [reportRecord t.cntDropped t.cntSaved t.cntCrcfail] ∧
      t.ended = true ∧ t.activeValid = false ∧ t.carry = [] ∧ t.groupOpen = s.groupOpen) ∧
    (1 ≤ n.toNat → n.toNat < s.frameSize →
      ∃ t l, exec (.tail rsv n) s = .next t ∧
        t.outq = s.outq ++ [.evt (.truncatedTail n)] ++ l ++ [reportRecord t.cntDropped t.cntSaved t.cntCrcfail] ∧
        t.ended = true ∧ t.activeValid = false ∧ t.carry = [] ∧ t.groupOpen = s.groupOpen)

/-- A legal TAIL on an open stream is its notice and then what EOS does (R104). -/
def Obligations.TailIsItsNoticeThenEos : Prop :=
  ∀ (rsv rsv' : BitVec 4) (n arg : BitVec 24) (s : State), s.ended = false → 1 ≤ n.toNat → n.toNat < s.frameSize →
    exec (.tail rsv n) s = exec (.eos rsv' arg) { s with outq := s.outq ++ [.evt (.truncatedTail n)] }

/-- EOS with nothing in flight (R105, R106): bytes in CARRY are reported as discarded, then the totals; every other
element is as it was. -/
def Obligations.EosWithoutPacketDiscardsCarry : Prop :=
  ∀ (rsv : BitVec 4) (arg : BitVec 24) (s : State), s.ended = false → s.activeValid = false →
    (s.carry = [] → exec (.eos rsv arg) s = .next { s with
      ended := true, outq := s.outq ++ [reportRecord s.cntDropped s.cntSaved s.cntCrcfail] }) ∧
    (s.carry ≠ [] → exec (.eos rsv arg) s = .next { s with
      ended := true, carry := [], carryGap := false
      outq := s.outq ++ [.evt (.bytesDiscarded (BitVec.ofNat 16 s.carry.length) .endOfStream),
        reportRecord s.cntDropped s.cntSaved s.cntCrcfail] })

/-- A short packet is dropped with its event whatever KEEP_CORRUPT is, counting neither a failure nor a save (R156). -/
def Obligations.ShortPacketIsDropped : Prop :=
  ∀ (rsv : BitVec 4) (arg : BitVec 24) (s : State), StateInv s → s.ended = false → s.activeValid = true →
    s.pendRx.toNat < s.pendLen.toNat →
    exec (.eos rsv arg) s = .next { releaseSlot s with
      ended := true
      outq := s.outq ++ [slotSizeEvent s s.pendRx .short, reportRecord s.cntDropped s.cntSaved s.cntCrcfail] }

/-- A packet with a right CRC is released, once, after EV_PACKET_SIZE_MISMATCH(LONG) when more than L bytes came, its
payload trimmed to the first L - 2 (R157, R158, R161, R162, R163). -/
def Obligations.GoodPacketIsReleasedTrimmed : Prop :=
  ∀ (rsv : BitVec 4) (arg : BitVec 24) (s : State), StateInv s → s.ended = false → s.activeValid = true →
    s.pendLen.toNat ≤ s.pendRx.toNat → GoodField s.pendData →
    exec (.eos rsv arg) s = .next { releaseSlot s with
      ended := true, cntSaved := satAdd s.cntSaved 1
      outq := s.outq ++ (if s.pendLen.toNat < s.pendRx.toNat then [slotSizeEvent s s.pendRx .long] else []) ++
        [.pkt (slotRecord s s.pendData true (decide (s.pendLen.toNat < s.pendRx.toNat))),
          reportRecord s.cntDropped (satAdd s.cntSaved 1) s.cntCrcfail] }

/-- A CRC mismatch (R160, R161, R170, R189): counted and reported; discarded with KEEP_CORRUPT = 0, released with
CRC_OK = 0 with KEEP_CORRUPT = 1. -/
def Obligations.CrcMismatchIsCountedAndKeptOnlyIfAsked : Prop :=
  ∀ (rsv : BitVec 4) (arg : BitVec 24) (s : State), StateInv s → s.ended = false → s.activeValid = true →
    s.pendLen.toNat ≤ s.pendRx.toNat → 2 ≤ s.pendLen.toNat →
    be16 s.pendData (s.pendData.length - 2) ≠ config.crc16Fn (s.pendData.take (s.pendData.length - 2)) →
    let size := if s.pendLen.toNat < s.pendRx.toNat then [slotSizeEvent s s.pendRx .long] else []
    let event := Record.evt (.crcMismatch s.pendApid s.pendSf s.pendCnt (be16 s.pendData (s.pendData.length - 2))
      (config.crc16Fn (s.pendData.take (s.pendData.length - 2))) s.keepCorrupt false)
    (s.keepCorrupt = false → exec (.eos rsv arg) s = .next { releaseSlot s with
      ended := true, cntCrcfail := satAdd s.cntCrcfail 1
      outq := s.outq ++ size ++ [event, reportRecord s.cntDropped s.cntSaved (satAdd s.cntCrcfail 1)] }) ∧
    (s.keepCorrupt = true → exec (.eos rsv arg) s = .next { releaseSlot s with
      ended := true, cntCrcfail := satAdd s.cntCrcfail 1, cntSaved := satAdd s.cntSaved 1
      outq := s.outq ++ size ++ [event,
        .pkt (slotRecord s s.pendData false (decide (s.pendLen.toNat < s.pendRx.toNat))),
        reportRecord s.cntDropped (satAdd s.cntSaved 1) (satAdd s.cntCrcfail 1)] })

/-- A packet with L = 1 has no trailer (R153): it counts as a CRC mismatch with crc_rx = 0 and the CRC of the empty
payload, after EV_PACKET_SIZE_MISMATCH(LONG) when more than one byte came (R157); with KEEP_CORRUPT = 1 it is released with
an empty payload, CRC_RX = 0 and CRC_OK = 0 (R161, R163). -/
def Obligations.PacketWithoutTrailerFailsTheCrc : Prop :=
  ∀ (rsv : BitVec 4) (arg : BitVec 24) (s : State), StateInv s → s.ended = false → s.activeValid = true →
    s.pendLen.toNat = 1 → 1 ≤ s.pendRx.toNat →
    let size := if 1 < s.pendRx.toNat then [slotSizeEvent s s.pendRx .long] else []
    let event := Record.evt (.crcMismatch s.pendApid s.pendSf s.pendCnt 0#16 (config.crc16Fn []) s.keepCorrupt true)
    (s.keepCorrupt = false → exec (.eos rsv arg) s = .next { releaseSlot s with
      ended := true, cntCrcfail := satAdd s.cntCrcfail 1
      outq := s.outq ++ size ++ [event, reportRecord s.cntDropped s.cntSaved (satAdd s.cntCrcfail 1)] }) ∧
    (s.keepCorrupt = true → exec (.eos rsv arg) s = .next { releaseSlot s with
      ended := true, cntCrcfail := satAdd s.cntCrcfail 1, cntSaved := satAdd s.cntSaved 1
      outq := s.outq ++ size ++ [event,
        .pkt { slotRecord s [] false (decide (1 < s.pendRx.toNat)) with
          payload := [], crcRx := 0#16, crcCalc := config.crc16Fn [] },
        reportRecord s.cntDropped (satAdd s.cntSaved 1) (satAdd s.cntCrcfail 1)] })

/-! ### Demultiplexer

The M-PDU words as instructions of their own are the model's (log 2); FRAME runs the same stage
(FrameIsHeaderWordThenMpduWord). -/

/-- NOHDR with a packet in flight (R122, R58): the whole zone is appended, what fits below L stored, everything counted;
the packet stays in flight and nothing else changes. The M-PDU word as an instruction is the model's (log 2). -/
def Obligations.NoHeaderFrameContinuesThePacket : Prop :=
  ∀ (spare : BitVec 5) (z : Bytes) (s : State), s.ended = false → s.activeValid = true → Memory.wf s →
    exec (.mpduNohdr spare z) s = .next { s with
      lastFhp := Config.fhpNohdr, pendRx := satAdd s.pendRx z.length
      pendData := s.pendData ++ z.take (s.pendLen.toNat - s.pendData.length) }

/-- NOHDR with nothing in flight (R123, R216): the zone, after what CARRY held, is parsed as if a header began at its
first byte. The gap flag of CARRY becomes FRAMES_DROPPED of the first packet, and reaches no later one (R129): of a packet
that stays in flight (R142), of one that ends inside the buffer (R140, R141); a buffer too short for a header keeps it
(R128). The M-PDU word as an instruction is the model's (log 2). -/
def Obligations.NoHeaderFrameWithoutContextIsParsed : Prop :=
  ∀ (spare : BitVec 5) (z : Bytes) (s : State), s.ended = false → s.activeValid = false →
    s.carry.length ≤ 5 → z.length = Config.zone s.frameSize →
    let u := { s with lastFhp := Config.fhpNohdr, carry := [], carryGap := false }
    (s.carryGap = false → exec (.mpduNohdr spare z) s = parseRest (s.carry ++ z) u) ∧
    (∀ (h : PacketHeader) (d : Bytes), s.carry ++ z = headerBytes h ++ d → d.length ≤ h.lenField.toNat + 1 →
      (Accepted s.groupOpen h → exec (.mpduNohdr spare z) s =
        .next (withInFlight h d s.carryGap { u with groupOpen := groupsAfter s.groupOpen h })) ∧
      (¬ Accepted s.groupOpen h → exec (.mpduNohdr spare z) s = .next (segmentDone h d s.carryGap u))) ∧
    (∀ (h : PacketHeader) (d rest : Bytes), s.carry ++ z = packetBytes h d ++ rest → d.length = h.lenField.toNat + 1 →
      rest ≠ [] → exec (.mpduNohdr spare z) s = parseRest rest (segmentDone h d s.carryGap u)) ∧
    ((s.carry ++ z).length < 6 → s.carry ≠ [] → exec (.mpduNohdr spare z) s =
      .next { u with carry := s.carry ++ z, carryGap := s.carryGap })

/-- Case A0 (R119, R120, R125): head bytes no packet owns are reported as discarded, and the tail is parsed afresh. -/
def Obligations.UnownedHeadIsDiscarded : Prop :=
  ∀ (spare : BitVec 5) (fhp : BitVec 11) (z : Bytes) (s : State), s.ended = false → Idle s →
    z.length = Config.zone s.frameSize → fhp.toNat < Config.zone s.frameSize → fhp ≠ Config.fhpNohdr →
    exec (.mpduPtr spare fhp z) s = parseRest (z.drop fhp.toNat) { s with
      lastFhp := fhp
      outq := s.outq ++ (if fhp = 0#11 then [] else [.evt (.bytesDiscarded (BitVec.ofNat 16 fhp.toNat) .unowned)]) }

/-- Case A1 residue (R117, an inference the spec marks "derived", and R125): CARRY and the head together too short for a
header are reported as discarded. -/
def Obligations.ResidueBeforeTheHeaderIsDiscarded : Prop :=
  ∀ (spare : BitVec 5) (fhp : BitVec 11) (z : Bytes) (s : State), s.ended = false → s.activeValid = false →
    s.carry ≠ [] → s.carry.length + fhp.toNat < 6 → z.length = Config.zone s.frameSize →
    fhp.toNat < Config.zone s.frameSize →
    exec (.mpduPtr spare fhp z) s = parseRest (z.drop fhp.toNat) { s with
      lastFhp := fhp, carry := [], carryGap := false
      outq := s.outq ++ [.evt (.bytesDiscarded (BitVec.ofNat 16 (s.carry.length + fhp.toNat)) .residue)] }

/-- Case A1 (R115 to R117, R129): CARRY, which holds 1 to 5 bytes of a header, and the head are one buffer, in which the
header is completed. Whatever the buffer holds (one packet or any number, the last complete or with bytes missing, of any
class, a fill or an orphan included; or, after complete packets or none, 1 to 5 bytes that are discarded as RESIDUE),
`CarryResolved` says what is left of it, for every buffer something, and the zone is parsed from the pointer on. Its first
packet has FRAMES_DROPPED the gap flag of CARRY, and no later one has it. The M-PDU word as an instruction is the model's
(log 2). -/
def Obligations.SplitHeaderIsCompletedAndReleased : Prop :=
  ∀ (spare : BitVec 5) (fhp : BitVec 11) (z : Bytes) (s : State),
    s.ended = false → s.activeValid = false → 1 ≤ s.carry.length → s.carry.length ≤ 5 → SlotEmpty s →
    z.length = Config.zone s.frameSize → fhp.toNat < Config.zone s.frameSize → fhp ≠ Config.fhpNohdr →
    s.pendData = [] →
    let buf := s.carry ++ z.take fhp.toNat
    let v := { s with lastFhp := fhp, carry := [], carryGap := false }
    (∃ u, CarryResolved buf s.carryGap v u) ∧
    ∀ u, CarryResolved buf s.carryGap v u → exec (.mpduPtr spare fhp z) s = parseRest (z.drop fhp.toNat) u

/-- Case A2 (R118, R156): the head is appended to the packet in flight; still short, it is dropped, and the tail is
parsed. -/
def Obligations.ShortPacketIsDroppedAtTheNextHeader : Prop :=
  ∀ (spare : BitVec 5) (fhp : BitVec 11) (z : Bytes) (s : State), StateInv s → s.ended = false → s.activeValid = true →
    z.length = Config.zone s.frameSize → fhp.toNat < Config.zone s.frameSize → fhp ≠ Config.fhpNohdr →
    s.pendRx.toNat + fhp.toNat < s.pendLen.toNat →
    exec (.mpduPtr spare fhp z) s = parseRest (z.drop fhp.toNat) { releaseSlot s with
      lastFhp := fhp, outq := s.outq ++ [slotSizeEvent s (BitVec.ofNat 32 (s.pendRx.toNat + fhp.toNat)) .short] }

/-- Case A2 (R118, R161, R164): the head completes the packet in flight, which is released with its bytes in order,
none lost and none twice. However many bytes the head brings (short, exact, or LONG and trimmed, R156 to R158) and whatever
the CRC, the flush is the one EOS makes of the packet with the head appended (R58, R106, R118). The M-PDU word as an
instruction is the model's (log 2). -/
def Obligations.PacketIsCompletedByTheHead : Prop :=
  ∀ (spare : BitVec 5) (fhp : BitVec 11) (z : Bytes) (s : State), StateInv s → s.ended = false → s.activeValid = true →
    z.length = Config.zone s.frameSize → fhp.toNat < Config.zone s.frameSize → fhp ≠ Config.fhpNohdr →
    (s.pendRx.toNat + fhp.toNat = s.pendLen.toNat → GoodField (s.pendData ++ z.take fhp.toNat) →
      exec (.mpduPtr spare fhp z) s = parseRest (z.drop fhp.toNat) { releaseSlot s with
        lastFhp := fhp, cntSaved := satAdd s.cntSaved 1
        outq := s.outq ++ [.pkt (slotRecord s (s.pendData ++ z.take fhp.toNat) true false)] }) ∧
    (∀ (rsv : BitVec 4) (arg : BitVec 24), ∃ t : State, t.ended = false ∧
      exec (.eos rsv arg) { s with
        pendRx := satAdd s.pendRx fhp.toNat
        pendData := s.pendData ++ (z.take fhp.toNat).take (s.pendLen.toNat - s.pendData.length) } =
        .next { t with ended := true, outq := t.outq ++ [reportRecord t.cntDropped t.cntSaved t.cntCrcfail] } ∧
      exec (.mpduPtr spare fhp z) s = parseRest (z.drop fhp.toNat) { t with lastFhp := fhp })

/-- An out-of-range pointer (R121, R184): its event comes first, the whole zone is the head, and nothing is parsed
after it. The zone is discarded as UNOWNED with nothing in progress (R119); it is appended to a packet in flight, and
however many bytes that makes (short, exact, or LONG and trimmed) and whatever the CRC, the flush is the one EOS makes of
the packet with the zone appended (R118); after bytes in CARRY it is parsed with them and closed as `CarryResolved` says
(R115 to R117). The M-PDU word as an instruction is the model's (log 2). -/
def Obligations.OutOfRangePointerTakesTheZoneAsHead : Prop :=
  ∀ (spare : BitVec 5) (fhp : BitVec 11) (z : Bytes) (s : State), s.ended = false →
    z.length = Config.zone s.frameSize → Config.zone s.frameSize ≤ fhp.toNat → fhp ≠ Config.fhpNohdr →
    (∃ t l, exec (.mpduPtr spare fhp z) s = .next t ∧ t.outq = s.outq ++ .evt (.fhpOutOfRange fhp) :: l ∧
      t.lastFhp = fhp ∧ t.activeValid = false ∧ t.carry = [] ∧ t.carryGap = false) ∧
    (Idle s → exec (.mpduPtr spare fhp z) s = .next { s with
      lastFhp := fhp
      outq := s.outq ++ .evt (.fhpOutOfRange fhp) ::
        (if z = [] then [] else [.evt (.bytesDiscarded (BitVec.ofNat 16 z.length) .unowned)]) }) ∧
    (StateInv s → s.activeValid = true → s.pendRx.toNat + z.length < s.pendLen.toNat →
      exec (.mpduPtr spare fhp z) s = .next { releaseSlot s with
        lastFhp := fhp
        outq := s.outq ++ [.evt (.fhpOutOfRange fhp),
          slotSizeEvent s (BitVec.ofNat 32 (s.pendRx.toNat + z.length)) .short] }) ∧
    (StateInv s → s.activeValid = true → s.pendRx.toNat + z.length = s.pendLen.toNat → GoodField (s.pendData ++ z) →
      exec (.mpduPtr spare fhp z) s = .next { releaseSlot s with
        lastFhp := fhp, cntSaved := satAdd s.cntSaved 1
        outq := s.outq ++ [.evt (.fhpOutOfRange fhp), .pkt (slotRecord s (s.pendData ++ z) true false)] }) ∧
    (StateInv s → s.activeValid = true → ∀ (rsv : BitVec 4) (arg : BitVec 24), ∃ t : State, t.ended = false ∧
      exec (.eos rsv arg) { s with
        pendRx := satAdd s.pendRx z.length
        pendData := s.pendData ++ z.take (s.pendLen.toNat - s.pendData.length)
        outq := s.outq ++ [.evt (.fhpOutOfRange fhp)] } =
        .next { t with ended := true, outq := t.outq ++ [reportRecord t.cntDropped t.cntSaved t.cntCrcfail] } ∧
      exec (.mpduPtr spare fhp z) s = .next { t with lastFhp := fhp }) ∧
    (StateInv s → s.activeValid = false → s.carry ≠ [] →
      let v := { s with
        lastFhp := fhp, carry := [], carryGap := false, outq := s.outq ++ [.evt (.fhpOutOfRange fhp)] }
      (∃ u, CarryResolved (s.carry ++ z) s.carryGap v u) ∧
      ∀ u, CarryResolved (s.carry ++ z) s.carryGap v u → exec (.mpduPtr spare fhp z) s = .next u)

/-- Span tracking (R124): a packet in flight, any number of NOHDR frames and the end of the stream release the packet
whose data field is what was stored followed by all the zones in order. -/
def Obligations.SpanningPacketIsTheConcatenation : Prop :=
  ∀ (spare : BitVec 5) (rsv : BitVec 4) (arg : BitVec 24) (zones : List Bytes) (s : State),
    StateInv s → s.ended = false → s.activeValid = true →
    s.pendRx.toNat + zones.flatten.length = s.pendLen.toNat → GoodField (s.pendData ++ zones.flatten) →
    ∃ t, execAll (zones.map (Instr.mpduNohdr spare) ++ [.eos rsv arg]) s = .next t ∧
      t.outq = s.outq ++ [.pkt (slotRecord s (s.pendData ++ zones.flatten) true false),
        reportRecord s.cntDropped (satAdd s.cntSaved 1) s.cntCrcfail] ∧
      t.activeValid = false ∧ t.groupOpen = s.groupOpen

/-! ### Packet parser

The packet header words as instructions of their own are the model's (log 2); the demultiplexer runs them on the rest of
its buffer (`parseRest`). -/

/-- Fill (R132): no record, no group change, nothing pending; its extent is consumed and the loop goes on after it. -/
def Obligations.FillIsSkippedSilently : Prop :=
  ∀ (ver : BitVec 3) (type shf : BitVec 1) (sf : BitVec 2) (cnt : BitVec 14) (lenField : BitVec 16) (rest : Bytes) (s : State),
    s.ended = false → Idle s → RestFits s.frameSize rest →
    exec (.phFill ver type shf sf cnt lenField rest) s =
      if rest.length ≤ lenField.toNat + 1 then .next s else parseRest (rest.drop (lenField.toNat + 1)) s

/-- Orphans (R138, R187): a CONT or LAST with no open group is reported, its bytes consumed, and nothing else changes. -/
def Obligations.OrphanIsReportedAndSkipped : Prop :=
  ∀ (ver : BitVec 3) (type shf : BitVec 1) (apid : BitVec 11) (cnt : BitVec 14) (lenField : BitVec 16) (rest : Bytes)
    (s : State) (i : Instr) (sf : BitVec 2),
    s.ended = false → Idle s → RestFits s.frameSize rest → apid ≠ Config.apidFill → groupBit s.groupOpen apid = false →
    (sf, i) ∈ [(0#2, Instr.phCont ver type shf apid cnt lenField rest), (2#2, .phLast ver type shf apid cnt lenField rest)] →
    let t := { s with outq := s.outq ++ [.evt (.orphanSegment apid sf cnt (BitVec.ofNat 17 (lenField.toNat + 1)))] }
    exec i s = if rest.length ≤ lenField.toNat + 1 then .next t else parseRest (rest.drop (lenField.toNat + 1)) t

/-- The sequence-flag lifecycle (R134 to R137) and R142: an accepted header whose packet reaches the end of the buffer,
an exact fit included (R143), becomes the packet in flight with the bytes present; FIRST opens its group, STANDALONE and
LAST close it, CONT keeps it; no other group bit and no other element changes, and nothing is released. -/
def Obligations.AcceptedHeaderGoesInFlight : Prop :=
  ∀ (ver : BitVec 3) (type shf : BitVec 1) (apid : BitVec 11) (cnt : BitVec 14) (lenField : BitVec 16) (rest : Bytes)
    (s : State) (i : Instr) (sf : BitVec 2) (needsOpen opened : Bool),
    s.ended = false → Idle s → apid ≠ Config.apidFill → rest.length ≤ lenField.toNat + 1 →
    (i, sf, needsOpen, opened) ∈ [(Instr.phFirst ver type shf apid cnt lenField rest, 1#2, false, true),
      (.phStandalone ver type shf apid cnt lenField rest, 3#2, false, false),
      (.phCont ver type shf apid cnt lenField rest, 0#2, true, true),
      (.phLast ver type shf apid cnt lenField rest, 2#2, true, false)] →
    (needsOpen = true → groupBit s.groupOpen apid = true) →
    ∃ g, exec i s = .next (withInFlight ⟨ver, type, shf, apid, sf, cnt, lenField⟩ rest false { s with groupOpen := g }) ∧
      ∀ a : BitVec 11, a ≠ Config.apidFill → groupBit g a = if a = apid then opened else groupBit s.groupOpen a

/-- In-buffer release (R140, R141): the packet of an accepted header that ends strictly inside the buffer is flushed at
once, and the loop goes on at the byte after it: with a right CRC it is released (R161), with a wrong one or none at all
(R153) the failure is counted and reported and the packet released under KEEP_CORRUPT only (R160, R161), as `delivered`
says. -/
def Obligations.CompletePacketInBufferIsReleased : Prop :=
  ∀ (ver : BitVec 3) (type shf : BitVec 1) (apid : BitVec 11) (cnt : BitVec 14) (lenField : BitVec 16) (d rest : Bytes)
    (s : State) (i : Instr) (sf : BitVec 2) (needsOpen opened : Bool),
    s.ended = false → Idle s → RestFits s.frameSize (d ++ rest) → rest ≠ [] →
    apid ≠ Config.apidFill → d.length = lenField.toNat + 1 →
    (i, sf, needsOpen, opened) ∈ [(Instr.phFirst ver type shf apid cnt lenField (d ++ rest), 1#2, false, true),
      (.phStandalone ver type shf apid cnt lenField (d ++ rest), 3#2, false, false),
      (.phCont ver type shf apid cnt lenField (d ++ rest), 0#2, true, true),
      (.phLast ver type shf apid cnt lenField (d ++ rest), 2#2, true, false)] →
    (needsOpen = true → groupBit s.groupOpen apid = true) →
    ∃ g, exec i s = parseRest rest (delivered ⟨ver, type, shf, apid, sf, cnt, lenField⟩ d false { s with groupOpen := g }) ∧
      ∀ a : BitVec 11, a ≠ Config.apidFill → groupBit g a = if a = apid then opened else groupBit s.groupOpen a

/-- The instruction of a packet header word, executed while something is in progress, closes it first, as the header at a
frame's FHP does (R116 to R118, R125): a packet in flight, however many bytes it has, is flushed as EOS flushes it, and
bytes in CARRY are discarded. It is the model's choice for the words as instructions (log 4). -/
def Obligations.PacketWordClosesWhatIsInProgress : Prop :=
  ∀ (h : PacketHeader) (rest : Bytes) (s : State), s.ended = false → StateInv s →
    (s.activeValid = true → s.pendRx.toNat < s.pendLen.toNat →
      exec (decodePh h rest) s =
        exec (decodePh h rest) { releaseSlot s with outq := s.outq ++ [slotSizeEvent s s.pendRx .short] }) ∧
    (s.activeValid = true → ∀ (rsv : BitVec 4) (arg : BitVec 24), ∃ t : State, t.ended = false ∧ t.activeValid = false ∧
      exec (.eos rsv arg) s =
        .next { t with ended := true, outq := t.outq ++ [reportRecord t.cntDropped t.cntSaved t.cntCrcfail] } ∧
      exec (decodePh h rest) s = exec (decodePh h rest) t) ∧
    (s.activeValid = false → s.carry ≠ [] →
      exec (decodePh h rest) s = exec (decodePh h rest) { s with
        carry := [], carryGap := false
        outq := s.outq ++ [.evt (.bytesDiscarded (BitVec.ofNat 16 s.carry.length) .residue)] })

/-- Any number of complete STANDALONE packets back to back in one zone, followed by 1 to 5 bytes of the next header, are
released one by one in arrival order with their bytes unchanged, and the rest is kept in CARRY (R62, R128, R140, R141,
R164). -/
def Obligations.BackToBackPacketsAreReleasedInOrder : Prop :=
  ∀ (spare : BitVec 5) (packets : List (PacketHeader × Bytes)) (last : Bytes) (s : State),
    s.ended = false → Idle s → 1 ≤ last.length → last.length ≤ 5 →
    (∀ p ∈ packets, GoodPacket p.1 p.2 ∧ p.1.sf = 3#2 ∧ groupBit s.groupOpen p.1.apid = false) →
    ((packets.map fun p => packetBytes p.1 p.2).flatten ++ last).length = Config.zone s.frameSize →
    exec (.mpduPtr spare 0#11 ((packets.map fun p => packetBytes p.1 p.2).flatten ++ last)) s = .next { s with
      lastFhp := 0#11, carry := last, cntSaved := satAdd s.cntSaved packets.length
      outq := s.outq ++ packets.map fun p => .pkt (goodRecord p.1 p.2 false) }

/-! ### CRC-16 -/

/-- Values of the recurrence the spec states: the corner cases and the example of R146, whose exact form the spec takes
from general knowledge (log 6). -/
def Obligations.CrcHasTheStatedValues : Prop :=
  crc16 [] = 0xFFFF#16 ∧ crc16 [0x00#8] = 0xE1F0#16 ∧ crc16 [0xFF#8] = 0xFF00#16 ∧
  crc16 [0x31#8, 0x32#8, 0x33#8, 0x34#8, 0x35#8, 0x36#8, 0x37#8, 0x38#8, 0x39#8] = 0x29B1#16

/-- The recurrence computes the same function as the bitwise CRC-16 with polynomial 0x1021, initial value 0xFFFF, no
reflection and no final XOR, on every byte sequence: the note R152, which the spec takes from general knowledge (log 6). -/
def Obligations.CrcRecurrenceIsTheBitwiseCrc : Prop :=
  ∀ d : Bytes, crc16 d = crcBitwise d
end

