-- ==== Sys2Proof/Laws/Encoding.lean ====
section
/-! SUPPORT. Laws of the bit fields: what is read from a word or from header bytes is what was put there, and putting
back what was read gives the word or the bytes. -/

namespace Sys2Proof

@[simp] theorem byteAt_cons_zero (b : Byte) (l : Bytes) : byteAt (b :: l) 0 = b := rfl

@[simp] theorem byteAt_cons_succ (b : Byte) (l : Bytes) (i : Nat) : byteAt (b :: l) (i + 1) = byteAt l i := by
  simp [byteAt]

/-! ### The command word (R67) -/

theorem opOf_commandWord (op rsv : BitVec 4) (arg : BitVec 24) : opOf (commandWord op rsv arg) = op := by
  apply BitVec.eq_of_getLsbD_eq
  intro k hk
  simp only [opOf, commandWord, BitVec.getLsbD_extractLsb', BitVec.getLsbD_append]
  grind

theorem rsvOf_commandWord (op rsv : BitVec 4) (arg : BitVec 24) : rsvOf (commandWord op rsv arg) = rsv := by
  apply BitVec.eq_of_getLsbD_eq
  intro k hk
  simp only [rsvOf, commandWord, BitVec.getLsbD_extractLsb', BitVec.getLsbD_append]
  grind

theorem argOf_commandWord (op rsv : BitVec 4) (arg : BitVec 24) : argOf (commandWord op rsv arg) = arg := by
  apply BitVec.eq_of_getLsbD_eq
  intro k hk
  simp only [argOf, commandWord, BitVec.getLsbD_extractLsb', BitVec.getLsbD_append]
  grind

/-- A field of ARG read from the whole word stands 8 bits higher. -/
theorem extract_arg (op rsv : BitVec 4) (arg : BitVec 24) (lo n : Nat) :
    (commandWord op rsv arg).extractLsb' (8 + lo) n = arg.extractLsb' lo n := by
  apply BitVec.eq_of_getLsbD_eq
  intro k hk
  simp only [commandWord, BitVec.getLsbD_extractLsb', BitVec.getLsbD_append]
  grind

theorem commandWord_fields (w : Word) : commandWord (opOf w) (rsvOf w) (argOf w) = w := by
  apply BitVec.eq_of_getLsbD_eq
  intro k hk
  simp only [opOf, rsvOf, argOf, commandWord, BitVec.getLsbD_extractLsb', BitVec.getLsbD_append]
  grind

/-- ARG is its two parts. -/
theorem argOf_split (w : Word) (n m : Nat) (h : n + m = 24) :
    (w.extractLsb' (8 + m) n ++ w.extractLsb' 8 m).cast h = argOf w := by
  apply BitVec.eq_of_getLsbD_eq
  intro k hk
  simp only [argOf, BitVec.getLsbD_cast, BitVec.getLsbD_extractLsb', BitVec.getLsbD_append]
  grind

/-! ### Big-endian values (R52) -/

theorem be16_bytes16 (v : BitVec 16) (l : Bytes) : be16 (bytes16 v ++ l) 0 = v := by
  apply BitVec.eq_of_getLsbD_eq
  intro k hk
  simp only [be16, bytes16, byteAt, List.cons_append, List.nil_append, List.getD_cons_zero, List.getD_cons_succ,
    BitVec.getLsbD_extractLsb', BitVec.getLsbD_append]
  grind

theorem bytes16_be16 (a b : Byte) : bytes16 (a ++ b) = [a, b] := by
  simp only [bytes16, List.cons.injEq, and_true]
  constructor <;>
  · apply BitVec.eq_of_getLsbD_eq
    intro k hk
    simp only [BitVec.getLsbD_extractLsb', BitVec.getLsbD_append]
    grind

theorem bytes24_be24 (a b c : Byte) : bytes24 (a ++ b ++ c) = [a, b, c] := by
  simp only [bytes24, List.cons.injEq, and_true]
  refine ⟨?_, ?_, ?_⟩ <;>
  · apply BitVec.eq_of_getLsbD_eq
    intro k hk
    simp only [BitVec.getLsbD_extractLsb', BitVec.getLsbD_append]
    grind

/-! ### Headers (R73, R77, R80) -/

theorem decodeFrameHeader_frameHeaderBytes (version : BitVec 2) (scid : BitVec 6) (unused1 : BitVec 2) (vcid : BitVec 6)
    (ctr : BitVec 24) (unused5 : BitVec 8) :
    decodeFrameHeader (frameHeaderBytes version scid unused1 vcid ctr unused5) = ⟨version, scid, vcid, ctr⟩ := by
  simp only [decodeFrameHeader, frameHeaderBytes, bytes24, be24, byteAt, List.cons_append, List.nil_append,
    List.getD_cons_zero, List.getD_cons_succ, FrameHeader.mk.injEq]
  refine ⟨?_, ?_, ?_, ?_⟩ <;>
  · apply BitVec.eq_of_getLsbD_eq
    intro k hk
    simp only [BitVec.getLsbD_extractLsb', BitVec.getLsbD_append]
    grind

theorem parseHeader_headerBytes (h : PacketHeader) (l : Bytes) : parseHeader (headerBytes h ++ l) = h := by
  obtain ⟨ver, type, shf, apid, sf, cnt, len⟩ := h
  simp only [parseHeader, headerBytes, bytes16, be16, byteAt, List.cons_append, List.nil_append,
    List.getD_cons_zero, List.getD_cons_succ, PacketHeader.mk.injEq]
  refine ⟨?_, ?_, ?_, ?_, ?_, ?_, ?_⟩ <;>
  · apply BitVec.eq_of_getLsbD_eq
    intro k hk
    simp only [BitVec.getLsbD_extractLsb', BitVec.getLsbD_append]
    grind

theorem headerBytes_parseHeader (a b c d e f : Byte) (l : Bytes) :
    headerBytes (parseHeader (a :: b :: c :: d :: e :: f :: l)) = [a, b, c, d, e, f] := by
  simp only [parseHeader, headerBytes, bytes16, be16, byteAt, List.cons_append, List.nil_append,
    List.getD_cons_zero, List.getD_cons_succ, List.cons.injEq, and_true]
  refine ⟨?_, ?_, ?_, ?_, ?_, ?_⟩ <;>
  · apply BitVec.eq_of_getLsbD_eq
    intro k hk
    simp only [BitVec.getLsbD_extractLsb', BitVec.getLsbD_append]
    grind

theorem length_headerBytes (h : PacketHeader) : (headerBytes h).length = 6 := rfl

theorem fhpOfWord_append (spare : BitVec 5) (fhp : BitVec 11) : fhpOfWord (spare ++ fhp) = fhp := by
  apply BitVec.eq_of_getLsbD_eq
  intro k hk
  simp only [fhpOfWord, BitVec.getLsbD_extractLsb', BitVec.getLsbD_append]
  grind

theorem spareOfWord_append (spare : BitVec 5) (fhp : BitVec 11) : (spare ++ fhp : BitVec 16).extractLsb' 11 5 = spare := by
  apply BitVec.eq_of_getLsbD_eq
  intro k hk
  simp only [BitVec.getLsbD_extractLsb', BitVec.getLsbD_append]
  grind

theorem append_fhpOfWord (w : BitVec 16) : w.extractLsb' 11 5 ++ fhpOfWord w = w := by
  apply BitVec.eq_of_getLsbD_eq
  intro k hk
  simp only [fhpOfWord, BitVec.getLsbD_extractLsb', BitVec.getLsbD_append]
  grind

end Sys2Proof
end

