-- ==== Sys2Proof/Laws/State.lean ====
section
/-! SUPPORT. One lemma per field per update of State, each true by rfl, so that no later proof unfolds an update. -/

namespace Sys2Proof.Machine

variable (s : State)

/-! emit -/

@[simp] theorem emit_frameSize (r : Record) : (emit r s).frameSize = s.frameSize := rfl
@[simp] theorem emit_port (r : Record) : (emit r s).port = s.port := rfl
@[simp] theorem emit_keepCorrupt (r : Record) : (emit r s).keepCorrupt = s.keepCorrupt := rfl
@[simp] theorem emit_haveLast (r : Record) : (emit r s).haveLast = s.haveLast := rfl
@[simp] theorem emit_lastCtr (r : Record) : (emit r s).lastCtr = s.lastCtr := rfl
@[simp] theorem emit_lastVer (r : Record) : (emit r s).lastVer = s.lastVer := rfl
@[simp] theorem emit_lastScid (r : Record) : (emit r s).lastScid = s.lastScid := rfl
@[simp] theorem emit_lastVcid (r : Record) : (emit r s).lastVcid = s.lastVcid := rfl
@[simp] theorem emit_lastFhp (r : Record) : (emit r s).lastFhp = s.lastFhp := rfl
@[simp] theorem emit_carry (r : Record) : (emit r s).carry = s.carry := rfl
@[simp] theorem emit_carryGap (r : Record) : (emit r s).carryGap = s.carryGap := rfl
@[simp] theorem emit_activeValid (r : Record) : (emit r s).activeValid = s.activeValid := rfl
@[simp] theorem emit_pendVer (r : Record) : (emit r s).pendVer = s.pendVer := rfl
@[simp] theorem emit_pendType (r : Record) : (emit r s).pendType = s.pendType := rfl
@[simp] theorem emit_pendShf (r : Record) : (emit r s).pendShf = s.pendShf := rfl
@[simp] theorem emit_pendApid (r : Record) : (emit r s).pendApid = s.pendApid := rfl
@[simp] theorem emit_pendSf (r : Record) : (emit r s).pendSf = s.pendSf := rfl
@[simp] theorem emit_pendCnt (r : Record) : (emit r s).pendCnt = s.pendCnt := rfl
@[simp] theorem emit_pendLen (r : Record) : (emit r s).pendLen = s.pendLen := rfl
@[simp] theorem emit_pendFd (r : Record) : (emit r s).pendFd = s.pendFd := rfl
@[simp] theorem emit_pendData (r : Record) : (emit r s).pendData = s.pendData := rfl
@[simp] theorem emit_pendRx (r : Record) : (emit r s).pendRx = s.pendRx := rfl
@[simp] theorem emit_groupOpen (r : Record) : (emit r s).groupOpen = s.groupOpen := rfl
@[simp] theorem emit_cntDropped (r : Record) : (emit r s).cntDropped = s.cntDropped := rfl
@[simp] theorem emit_cntSaved (r : Record) : (emit r s).cntSaved = s.cntSaved := rfl
@[simp] theorem emit_cntCrcfail (r : Record) : (emit r s).cntCrcfail = s.cntCrcfail := rfl
@[simp] theorem emit_ended (r : Record) : (emit r s).ended = s.ended := rfl
@[simp] theorem emit_outq (r : Record) : (emit r s).outq = s.outq ++ [r] := rfl

/-! raiseEvent -/

@[simp] theorem raiseEvent_frameSize (e : Event) : (raiseEvent e s).frameSize = s.frameSize := rfl
@[simp] theorem raiseEvent_port (e : Event) : (raiseEvent e s).port = s.port := rfl
@[simp] theorem raiseEvent_keepCorrupt (e : Event) : (raiseEvent e s).keepCorrupt = s.keepCorrupt := rfl
@[simp] theorem raiseEvent_haveLast (e : Event) : (raiseEvent e s).haveLast = s.haveLast := rfl
@[simp] theorem raiseEvent_lastCtr (e : Event) : (raiseEvent e s).lastCtr = s.lastCtr := rfl
@[simp] theorem raiseEvent_lastVer (e : Event) : (raiseEvent e s).lastVer = s.lastVer := rfl
@[simp] theorem raiseEvent_lastScid (e : Event) : (raiseEvent e s).lastScid = s.lastScid := rfl
@[simp] theorem raiseEvent_lastVcid (e : Event) : (raiseEvent e s).lastVcid = s.lastVcid := rfl
@[simp] theorem raiseEvent_lastFhp (e : Event) : (raiseEvent e s).lastFhp = s.lastFhp := rfl
@[simp] theorem raiseEvent_carry (e : Event) : (raiseEvent e s).carry = s.carry := rfl
@[simp] theorem raiseEvent_carryGap (e : Event) : (raiseEvent e s).carryGap = s.carryGap := rfl
@[simp] theorem raiseEvent_activeValid (e : Event) : (raiseEvent e s).activeValid = s.activeValid := rfl
@[simp] theorem raiseEvent_pendVer (e : Event) : (raiseEvent e s).pendVer = s.pendVer := rfl
@[simp] theorem raiseEvent_pendType (e : Event) : (raiseEvent e s).pendType = s.pendType := rfl
@[simp] theorem raiseEvent_pendShf (e : Event) : (raiseEvent e s).pendShf = s.pendShf := rfl
@[simp] theorem raiseEvent_pendApid (e : Event) : (raiseEvent e s).pendApid = s.pendApid := rfl
@[simp] theorem raiseEvent_pendSf (e : Event) : (raiseEvent e s).pendSf = s.pendSf := rfl
@[simp] theorem raiseEvent_pendCnt (e : Event) : (raiseEvent e s).pendCnt = s.pendCnt := rfl
@[simp] theorem raiseEvent_pendLen (e : Event) : (raiseEvent e s).pendLen = s.pendLen := rfl
@[simp] theorem raiseEvent_pendFd (e : Event) : (raiseEvent e s).pendFd = s.pendFd := rfl
@[simp] theorem raiseEvent_pendData (e : Event) : (raiseEvent e s).pendData = s.pendData := rfl
@[simp] theorem raiseEvent_pendRx (e : Event) : (raiseEvent e s).pendRx = s.pendRx := rfl
@[simp] theorem raiseEvent_groupOpen (e : Event) : (raiseEvent e s).groupOpen = s.groupOpen := rfl
@[simp] theorem raiseEvent_cntDropped (e : Event) : (raiseEvent e s).cntDropped = s.cntDropped := rfl
@[simp] theorem raiseEvent_cntSaved (e : Event) : (raiseEvent e s).cntSaved = s.cntSaved := rfl
@[simp] theorem raiseEvent_cntCrcfail (e : Event) : (raiseEvent e s).cntCrcfail = s.cntCrcfail := rfl
@[simp] theorem raiseEvent_ended (e : Event) : (raiseEvent e s).ended = s.ended := rfl
@[simp] theorem raiseEvent_outq (e : Event) : (raiseEvent e s).outq = s.outq ++ [.evt e] := rfl

/-! appendPend -/

@[simp] theorem appendPend_frameSize (b : Bytes) : (appendPend b s).frameSize = s.frameSize := rfl
@[simp] theorem appendPend_port (b : Bytes) : (appendPend b s).port = s.port := rfl
@[simp] theorem appendPend_keepCorrupt (b : Bytes) : (appendPend b s).keepCorrupt = s.keepCorrupt := rfl
@[simp] theorem appendPend_haveLast (b : Bytes) : (appendPend b s).haveLast = s.haveLast := rfl
@[simp] theorem appendPend_lastCtr (b : Bytes) : (appendPend b s).lastCtr = s.lastCtr := rfl
@[simp] theorem appendPend_lastVer (b : Bytes) : (appendPend b s).lastVer = s.lastVer := rfl
@[simp] theorem appendPend_lastScid (b : Bytes) : (appendPend b s).lastScid = s.lastScid := rfl
@[simp] theorem appendPend_lastVcid (b : Bytes) : (appendPend b s).lastVcid = s.lastVcid := rfl
@[simp] theorem appendPend_lastFhp (b : Bytes) : (appendPend b s).lastFhp = s.lastFhp := rfl
@[simp] theorem appendPend_carry (b : Bytes) : (appendPend b s).carry = s.carry := rfl
@[simp] theorem appendPend_carryGap (b : Bytes) : (appendPend b s).carryGap = s.carryGap := rfl
@[simp] theorem appendPend_activeValid (b : Bytes) : (appendPend b s).activeValid = s.activeValid := rfl
@[simp] theorem appendPend_pendVer (b : Bytes) : (appendPend b s).pendVer = s.pendVer := rfl
@[simp] theorem appendPend_pendType (b : Bytes) : (appendPend b s).pendType = s.pendType := rfl
@[simp] theorem appendPend_pendShf (b : Bytes) : (appendPend b s).pendShf = s.pendShf := rfl
@[simp] theorem appendPend_pendApid (b : Bytes) : (appendPend b s).pendApid = s.pendApid := rfl
@[simp] theorem appendPend_pendSf (b : Bytes) : (appendPend b s).pendSf = s.pendSf := rfl
@[simp] theorem appendPend_pendCnt (b : Bytes) : (appendPend b s).pendCnt = s.pendCnt := rfl
@[simp] theorem appendPend_pendLen (b : Bytes) : (appendPend b s).pendLen = s.pendLen := rfl
@[simp] theorem appendPend_pendFd (b : Bytes) : (appendPend b s).pendFd = s.pendFd := rfl
@[simp] theorem appendPend_pendData (b : Bytes) : (appendPend b s).pendData = memWrite s.pendData (storedCount s) (slice b 0 (s.pendLen.toNat - storedCount s)) := rfl
@[simp] theorem appendPend_pendRx (b : Bytes) : (appendPend b s).pendRx = satAdd s.pendRx b.length := rfl
@[simp] theorem appendPend_groupOpen (b : Bytes) : (appendPend b s).groupOpen = s.groupOpen := rfl
@[simp] theorem appendPend_cntDropped (b : Bytes) : (appendPend b s).cntDropped = s.cntDropped := rfl
@[simp] theorem appendPend_cntSaved (b : Bytes) : (appendPend b s).cntSaved = s.cntSaved := rfl
@[simp] theorem appendPend_cntCrcfail (b : Bytes) : (appendPend b s).cntCrcfail = s.cntCrcfail := rfl
@[simp] theorem appendPend_ended (b : Bytes) : (appendPend b s).ended = s.ended := rfl
@[simp] theorem appendPend_outq (b : Bytes) : (appendPend b s).outq = s.outq := rfl

/-! releaseSlot -/

@[simp] theorem releaseSlot_frameSize : (releaseSlot s).frameSize = s.frameSize := rfl
@[simp] theorem releaseSlot_port : (releaseSlot s).port = s.port := rfl
@[simp] theorem releaseSlot_keepCorrupt : (releaseSlot s).keepCorrupt = s.keepCorrupt := rfl
@[simp] theorem releaseSlot_haveLast : (releaseSlot s).haveLast = s.haveLast := rfl
@[simp] theorem releaseSlot_lastCtr : (releaseSlot s).lastCtr = s.lastCtr := rfl
@[simp] theorem releaseSlot_lastVer : (releaseSlot s).lastVer = s.lastVer := rfl
@[simp] theorem releaseSlot_lastScid : (releaseSlot s).lastScid = s.lastScid := rfl
@[simp] theorem releaseSlot_lastVcid : (releaseSlot s).lastVcid = s.lastVcid := rfl
@[simp] theorem releaseSlot_lastFhp : (releaseSlot s).lastFhp = s.lastFhp := rfl
@[simp] theorem releaseSlot_carry : (releaseSlot s).carry = s.carry := rfl
@[simp] theorem releaseSlot_carryGap : (releaseSlot s).carryGap = s.carryGap := rfl
@[simp] theorem releaseSlot_activeValid : (releaseSlot s).activeValid = false := rfl
@[simp] theorem releaseSlot_pendVer : (releaseSlot s).pendVer = 0#3 := rfl
@[simp] theorem releaseSlot_pendType : (releaseSlot s).pendType = 0#1 := rfl
@[simp] theorem releaseSlot_pendShf : (releaseSlot s).pendShf = 0#1 := rfl
@[simp] theorem releaseSlot_pendApid : (releaseSlot s).pendApid = 0#11 := rfl
@[simp] theorem releaseSlot_pendSf : (releaseSlot s).pendSf = 0#2 := rfl
@[simp] theorem releaseSlot_pendCnt : (releaseSlot s).pendCnt = 0#14 := rfl
@[simp] theorem releaseSlot_pendLen : (releaseSlot s).pendLen = 0#17 := rfl
@[simp] theorem releaseSlot_pendFd : (releaseSlot s).pendFd = false := rfl
@[simp] theorem releaseSlot_pendData : (releaseSlot s).pendData = [] := rfl
@[simp] theorem releaseSlot_pendRx : (releaseSlot s).pendRx = 0#32 := rfl
@[simp] theorem releaseSlot_groupOpen : (releaseSlot s).groupOpen = s.groupOpen := rfl
@[simp] theorem releaseSlot_cntDropped : (releaseSlot s).cntDropped = s.cntDropped := rfl
@[simp] theorem releaseSlot_cntSaved : (releaseSlot s).cntSaved = s.cntSaved := rfl
@[simp] theorem releaseSlot_cntCrcfail : (releaseSlot s).cntCrcfail = s.cntCrcfail := rfl
@[simp] theorem releaseSlot_ended : (releaseSlot s).ended = s.ended := rfl
@[simp] theorem releaseSlot_outq : (releaseSlot s).outq = s.outq := rfl

/-! makeActive -/

@[simp] theorem makeActive_frameSize (p : Packet) : (makeActive p s).frameSize = s.frameSize := rfl
@[simp] theorem makeActive_port (p : Packet) : (makeActive p s).port = s.port := rfl
@[simp] theorem makeActive_keepCorrupt (p : Packet) : (makeActive p s).keepCorrupt = s.keepCorrupt := rfl
@[simp] theorem makeActive_haveLast (p : Packet) : (makeActive p s).haveLast = s.haveLast := rfl
@[simp] theorem makeActive_lastCtr (p : Packet) : (makeActive p s).lastCtr = s.lastCtr := rfl
@[simp] theorem makeActive_lastVer (p : Packet) : (makeActive p s).lastVer = s.lastVer := rfl
@[simp] theorem makeActive_lastScid (p : Packet) : (makeActive p s).lastScid = s.lastScid := rfl
@[simp] theorem makeActive_lastVcid (p : Packet) : (makeActive p s).lastVcid = s.lastVcid := rfl
@[simp] theorem makeActive_lastFhp (p : Packet) : (makeActive p s).lastFhp = s.lastFhp := rfl
@[simp] theorem makeActive_carry (p : Packet) : (makeActive p s).carry = s.carry := rfl
@[simp] theorem makeActive_carryGap (p : Packet) : (makeActive p s).carryGap = s.carryGap := rfl
@[simp] theorem makeActive_activeValid (p : Packet) : (makeActive p s).activeValid = true := rfl
@[simp] theorem makeActive_pendVer (p : Packet) : (makeActive p s).pendVer = p.ver := rfl
@[simp] theorem makeActive_pendType (p : Packet) : (makeActive p s).pendType = p.type := rfl
@[simp] theorem makeActive_pendShf (p : Packet) : (makeActive p s).pendShf = p.shf := rfl
@[simp] theorem makeActive_pendApid (p : Packet) : (makeActive p s).pendApid = p.apid := rfl
@[simp] theorem makeActive_pendSf (p : Packet) : (makeActive p s).pendSf = p.sf := rfl
@[simp] theorem makeActive_pendCnt (p : Packet) : (makeActive p s).pendCnt = p.cnt := rfl
@[simp] theorem makeActive_pendLen (p : Packet) : (makeActive p s).pendLen = p.len := rfl
@[simp] theorem makeActive_pendFd (p : Packet) : (makeActive p s).pendFd = p.fd := rfl
@[simp] theorem makeActive_pendData (p : Packet) : (makeActive p s).pendData = p.data := rfl
@[simp] theorem makeActive_pendRx (p : Packet) : (makeActive p s).pendRx = p.rx := rfl
@[simp] theorem makeActive_groupOpen (p : Packet) : (makeActive p s).groupOpen = s.groupOpen := rfl
@[simp] theorem makeActive_cntDropped (p : Packet) : (makeActive p s).cntDropped = s.cntDropped := rfl
@[simp] theorem makeActive_cntSaved (p : Packet) : (makeActive p s).cntSaved = s.cntSaved := rfl
@[simp] theorem makeActive_cntCrcfail (p : Packet) : (makeActive p s).cntCrcfail = s.cntCrcfail := rfl
@[simp] theorem makeActive_ended (p : Packet) : (makeActive p s).ended = s.ended := rfl
@[simp] theorem makeActive_outq (p : Packet) : (makeActive p s).outq = s.outq := rfl

/-! setCarry -/

@[simp] theorem setCarry_frameSize (b : Bytes) (g : Bool) : (setCarry b g s).frameSize = s.frameSize := rfl
@[simp] theorem setCarry_port (b : Bytes) (g : Bool) : (setCarry b g s).port = s.port := rfl
@[simp] theorem setCarry_keepCorrupt (b : Bytes) (g : Bool) : (setCarry b g s).keepCorrupt = s.keepCorrupt := rfl
@[simp] theorem setCarry_haveLast (b : Bytes) (g : Bool) : (setCarry b g s).haveLast = s.haveLast := rfl
@[simp] theorem setCarry_lastCtr (b : Bytes) (g : Bool) : (setCarry b g s).lastCtr = s.lastCtr := rfl
@[simp] theorem setCarry_lastVer (b : Bytes) (g : Bool) : (setCarry b g s).lastVer = s.lastVer := rfl
@[simp] theorem setCarry_lastScid (b : Bytes) (g : Bool) : (setCarry b g s).lastScid = s.lastScid := rfl
@[simp] theorem setCarry_lastVcid (b : Bytes) (g : Bool) : (setCarry b g s).lastVcid = s.lastVcid := rfl
@[simp] theorem setCarry_lastFhp (b : Bytes) (g : Bool) : (setCarry b g s).lastFhp = s.lastFhp := rfl
@[simp] theorem setCarry_carry (b : Bytes) (g : Bool) : (setCarry b g s).carry = b := rfl
@[simp] theorem setCarry_carryGap (b : Bytes) (g : Bool) : (setCarry b g s).carryGap = g := rfl
@[simp] theorem setCarry_activeValid (b : Bytes) (g : Bool) : (setCarry b g s).activeValid = s.activeValid := rfl
@[simp] theorem setCarry_pendVer (b : Bytes) (g : Bool) : (setCarry b g s).pendVer = s.pendVer := rfl
@[simp] theorem setCarry_pendType (b : Bytes) (g : Bool) : (setCarry b g s).pendType = s.pendType := rfl
@[simp] theorem setCarry_pendShf (b : Bytes) (g : Bool) : (setCarry b g s).pendShf = s.pendShf := rfl
@[simp] theorem setCarry_pendApid (b : Bytes) (g : Bool) : (setCarry b g s).pendApid = s.pendApid := rfl
@[simp] theorem setCarry_pendSf (b : Bytes) (g : Bool) : (setCarry b g s).pendSf = s.pendSf := rfl
@[simp] theorem setCarry_pendCnt (b : Bytes) (g : Bool) : (setCarry b g s).pendCnt = s.pendCnt := rfl
@[simp] theorem setCarry_pendLen (b : Bytes) (g : Bool) : (setCarry b g s).pendLen = s.pendLen := rfl
@[simp] theorem setCarry_pendFd (b : Bytes) (g : Bool) : (setCarry b g s).pendFd = s.pendFd := rfl
@[simp] theorem setCarry_pendData (b : Bytes) (g : Bool) : (setCarry b g s).pendData = s.pendData := rfl
@[simp] theorem setCarry_pendRx (b : Bytes) (g : Bool) : (setCarry b g s).pendRx = s.pendRx := rfl
@[simp] theorem setCarry_groupOpen (b : Bytes) (g : Bool) : (setCarry b g s).groupOpen = s.groupOpen := rfl
@[simp] theorem setCarry_cntDropped (b : Bytes) (g : Bool) : (setCarry b g s).cntDropped = s.cntDropped := rfl
@[simp] theorem setCarry_cntSaved (b : Bytes) (g : Bool) : (setCarry b g s).cntSaved = s.cntSaved := rfl
@[simp] theorem setCarry_cntCrcfail (b : Bytes) (g : Bool) : (setCarry b g s).cntCrcfail = s.cntCrcfail := rfl
@[simp] theorem setCarry_ended (b : Bytes) (g : Bool) : (setCarry b g s).ended = s.ended := rfl
@[simp] theorem setCarry_outq (b : Bytes) (g : Bool) : (setCarry b g s).outq = s.outq := rfl

/-! setGroup -/

@[simp] theorem setGroup_frameSize (a : BitVec 11) (v : Bool) : (setGroup a v s).frameSize = s.frameSize := rfl
@[simp] theorem setGroup_port (a : BitVec 11) (v : Bool) : (setGroup a v s).port = s.port := rfl
@[simp] theorem setGroup_keepCorrupt (a : BitVec 11) (v : Bool) : (setGroup a v s).keepCorrupt = s.keepCorrupt := rfl
@[simp] theorem setGroup_haveLast (a : BitVec 11) (v : Bool) : (setGroup a v s).haveLast = s.haveLast := rfl
@[simp] theorem setGroup_lastCtr (a : BitVec 11) (v : Bool) : (setGroup a v s).lastCtr = s.lastCtr := rfl
@[simp] theorem setGroup_lastVer (a : BitVec 11) (v : Bool) : (setGroup a v s).lastVer = s.lastVer := rfl
@[simp] theorem setGroup_lastScid (a : BitVec 11) (v : Bool) : (setGroup a v s).lastScid = s.lastScid := rfl
@[simp] theorem setGroup_lastVcid (a : BitVec 11) (v : Bool) : (setGroup a v s).lastVcid = s.lastVcid := rfl
@[simp] theorem setGroup_lastFhp (a : BitVec 11) (v : Bool) : (setGroup a v s).lastFhp = s.lastFhp := rfl
@[simp] theorem setGroup_carry (a : BitVec 11) (v : Bool) : (setGroup a v s).carry = s.carry := rfl
@[simp] theorem setGroup_carryGap (a : BitVec 11) (v : Bool) : (setGroup a v s).carryGap = s.carryGap := rfl
@[simp] theorem setGroup_activeValid (a : BitVec 11) (v : Bool) : (setGroup a v s).activeValid = s.activeValid := rfl
@[simp] theorem setGroup_pendVer (a : BitVec 11) (v : Bool) : (setGroup a v s).pendVer = s.pendVer := rfl
@[simp] theorem setGroup_pendType (a : BitVec 11) (v : Bool) : (setGroup a v s).pendType = s.pendType := rfl
@[simp] theorem setGroup_pendShf (a : BitVec 11) (v : Bool) : (setGroup a v s).pendShf = s.pendShf := rfl
@[simp] theorem setGroup_pendApid (a : BitVec 11) (v : Bool) : (setGroup a v s).pendApid = s.pendApid := rfl
@[simp] theorem setGroup_pendSf (a : BitVec 11) (v : Bool) : (setGroup a v s).pendSf = s.pendSf := rfl
@[simp] theorem setGroup_pendCnt (a : BitVec 11) (v : Bool) : (setGroup a v s).pendCnt = s.pendCnt := rfl
@[simp] theorem setGroup_pendLen (a : BitVec 11) (v : Bool) : (setGroup a v s).pendLen = s.pendLen := rfl
@[simp] theorem setGroup_pendFd (a : BitVec 11) (v : Bool) : (setGroup a v s).pendFd = s.pendFd := rfl
@[simp] theorem setGroup_pendData (a : BitVec 11) (v : Bool) : (setGroup a v s).pendData = s.pendData := rfl
@[simp] theorem setGroup_pendRx (a : BitVec 11) (v : Bool) : (setGroup a v s).pendRx = s.pendRx := rfl
@[simp] theorem setGroup_groupOpen (a : BitVec 11) (v : Bool) : (setGroup a v s).groupOpen = setGroupBit s.groupOpen a v := rfl
@[simp] theorem setGroup_cntDropped (a : BitVec 11) (v : Bool) : (setGroup a v s).cntDropped = s.cntDropped := rfl
@[simp] theorem setGroup_cntSaved (a : BitVec 11) (v : Bool) : (setGroup a v s).cntSaved = s.cntSaved := rfl
@[simp] theorem setGroup_cntCrcfail (a : BitVec 11) (v : Bool) : (setGroup a v s).cntCrcfail = s.cntCrcfail := rfl
@[simp] theorem setGroup_ended (a : BitVec 11) (v : Bool) : (setGroup a v s).ended = s.ended := rfl
@[simp] theorem setGroup_outq (a : BitVec 11) (v : Bool) : (setGroup a v s).outq = s.outq := rfl

/-! addDropped -/

@[simp] theorem addDropped_frameSize (n : Nat) : (addDropped n s).frameSize = s.frameSize := rfl
@[simp] theorem addDropped_port (n : Nat) : (addDropped n s).port = s.port := rfl
@[simp] theorem addDropped_keepCorrupt (n : Nat) : (addDropped n s).keepCorrupt = s.keepCorrupt := rfl
@[simp] theorem addDropped_haveLast (n : Nat) : (addDropped n s).haveLast = s.haveLast := rfl
@[simp] theorem addDropped_lastCtr (n : Nat) : (addDropped n s).lastCtr = s.lastCtr := rfl
@[simp] theorem addDropped_lastVer (n : Nat) : (addDropped n s).lastVer = s.lastVer := rfl
@[simp] theorem addDropped_lastScid (n : Nat) : (addDropped n s).lastScid = s.lastScid := rfl
@[simp] theorem addDropped_lastVcid (n : Nat) : (addDropped n s).lastVcid = s.lastVcid := rfl
@[simp] theorem addDropped_lastFhp (n : Nat) : (addDropped n s).lastFhp = s.lastFhp := rfl
@[simp] theorem addDropped_carry (n : Nat) : (addDropped n s).carry = s.carry := rfl
@[simp] theorem addDropped_carryGap (n : Nat) : (addDropped n s).carryGap = s.carryGap := rfl
@[simp] theorem addDropped_activeValid (n : Nat) : (addDropped n s).activeValid = s.activeValid := rfl
@[simp] theorem addDropped_pendVer (n : Nat) : (addDropped n s).pendVer = s.pendVer := rfl
@[simp] theorem addDropped_pendType (n : Nat) : (addDropped n s).pendType = s.pendType := rfl
@[simp] theorem addDropped_pendShf (n : Nat) : (addDropped n s).pendShf = s.pendShf := rfl
@[simp] theorem addDropped_pendApid (n : Nat) : (addDropped n s).pendApid = s.pendApid := rfl
@[simp] theorem addDropped_pendSf (n : Nat) : (addDropped n s).pendSf = s.pendSf := rfl
@[simp] theorem addDropped_pendCnt (n : Nat) : (addDropped n s).pendCnt = s.pendCnt := rfl
@[simp] theorem addDropped_pendLen (n : Nat) : (addDropped n s).pendLen = s.pendLen := rfl
@[simp] theorem addDropped_pendFd (n : Nat) : (addDropped n s).pendFd = s.pendFd := rfl
@[simp] theorem addDropped_pendData (n : Nat) : (addDropped n s).pendData = s.pendData := rfl
@[simp] theorem addDropped_pendRx (n : Nat) : (addDropped n s).pendRx = s.pendRx := rfl
@[simp] theorem addDropped_groupOpen (n : Nat) : (addDropped n s).groupOpen = s.groupOpen := rfl
@[simp] theorem addDropped_cntDropped (n : Nat) : (addDropped n s).cntDropped = satAdd s.cntDropped n := rfl
@[simp] theorem addDropped_cntSaved (n : Nat) : (addDropped n s).cntSaved = s.cntSaved := rfl
@[simp] theorem addDropped_cntCrcfail (n : Nat) : (addDropped n s).cntCrcfail = s.cntCrcfail := rfl
@[simp] theorem addDropped_ended (n : Nat) : (addDropped n s).ended = s.ended := rfl
@[simp] theorem addDropped_outq (n : Nat) : (addDropped n s).outq = s.outq := rfl

/-! addSaved -/

@[simp] theorem addSaved_frameSize : (addSaved s).frameSize = s.frameSize := rfl
@[simp] theorem addSaved_port : (addSaved s).port = s.port := rfl
@[simp] theorem addSaved_keepCorrupt : (addSaved s).keepCorrupt = s.keepCorrupt := rfl
@[simp] theorem addSaved_haveLast : (addSaved s).haveLast = s.haveLast := rfl
@[simp] theorem addSaved_lastCtr : (addSaved s).lastCtr = s.lastCtr := rfl
@[simp] theorem addSaved_lastVer : (addSaved s).lastVer = s.lastVer := rfl
@[simp] theorem addSaved_lastScid : (addSaved s).lastScid = s.lastScid := rfl
@[simp] theorem addSaved_lastVcid : (addSaved s).lastVcid = s.lastVcid := rfl
@[simp] theorem addSaved_lastFhp : (addSaved s).lastFhp = s.lastFhp := rfl
@[simp] theorem addSaved_carry : (addSaved s).carry = s.carry := rfl
@[simp] theorem addSaved_carryGap : (addSaved s).carryGap = s.carryGap := rfl
@[simp] theorem addSaved_activeValid : (addSaved s).activeValid = s.activeValid := rfl
@[simp] theorem addSaved_pendVer : (addSaved s).pendVer = s.pendVer := rfl
@[simp] theorem addSaved_pendType : (addSaved s).pendType = s.pendType := rfl
@[simp] theorem addSaved_pendShf : (addSaved s).pendShf = s.pendShf := rfl
@[simp] theorem addSaved_pendApid : (addSaved s).pendApid = s.pendApid := rfl
@[simp] theorem addSaved_pendSf : (addSaved s).pendSf = s.pendSf := rfl
@[simp] theorem addSaved_pendCnt : (addSaved s).pendCnt = s.pendCnt := rfl
@[simp] theorem addSaved_pendLen : (addSaved s).pendLen = s.pendLen := rfl
@[simp] theorem addSaved_pendFd : (addSaved s).pendFd = s.pendFd := rfl
@[simp] theorem addSaved_pendData : (addSaved s).pendData = s.pendData := rfl
@[simp] theorem addSaved_pendRx : (addSaved s).pendRx = s.pendRx := rfl
@[simp] theorem addSaved_groupOpen : (addSaved s).groupOpen = s.groupOpen := rfl
@[simp] theorem addSaved_cntDropped : (addSaved s).cntDropped = s.cntDropped := rfl
@[simp] theorem addSaved_cntSaved : (addSaved s).cntSaved = satAdd s.cntSaved 1 := rfl
@[simp] theorem addSaved_cntCrcfail : (addSaved s).cntCrcfail = s.cntCrcfail := rfl
@[simp] theorem addSaved_ended : (addSaved s).ended = s.ended := rfl
@[simp] theorem addSaved_outq : (addSaved s).outq = s.outq := rfl

/-! addCrcfail -/

@[simp] theorem addCrcfail_frameSize : (addCrcfail s).frameSize = s.frameSize := rfl
@[simp] theorem addCrcfail_port : (addCrcfail s).port = s.port := rfl
@[simp] theorem addCrcfail_keepCorrupt : (addCrcfail s).keepCorrupt = s.keepCorrupt := rfl
@[simp] theorem addCrcfail_haveLast : (addCrcfail s).haveLast = s.haveLast := rfl
@[simp] theorem addCrcfail_lastCtr : (addCrcfail s).lastCtr = s.lastCtr := rfl
@[simp] theorem addCrcfail_lastVer : (addCrcfail s).lastVer = s.lastVer := rfl
@[simp] theorem addCrcfail_lastScid : (addCrcfail s).lastScid = s.lastScid := rfl
@[simp] theorem addCrcfail_lastVcid : (addCrcfail s).lastVcid = s.lastVcid := rfl
@[simp] theorem addCrcfail_lastFhp : (addCrcfail s).lastFhp = s.lastFhp := rfl
@[simp] theorem addCrcfail_carry : (addCrcfail s).carry = s.carry := rfl
@[simp] theorem addCrcfail_carryGap : (addCrcfail s).carryGap = s.carryGap := rfl
@[simp] theorem addCrcfail_activeValid : (addCrcfail s).activeValid = s.activeValid := rfl
@[simp] theorem addCrcfail_pendVer : (addCrcfail s).pendVer = s.pendVer := rfl
@[simp] theorem addCrcfail_pendType : (addCrcfail s).pendType = s.pendType := rfl
@[simp] theorem addCrcfail_pendShf : (addCrcfail s).pendShf = s.pendShf := rfl
@[simp] theorem addCrcfail_pendApid : (addCrcfail s).pendApid = s.pendApid := rfl
@[simp] theorem addCrcfail_pendSf : (addCrcfail s).pendSf = s.pendSf := rfl
@[simp] theorem addCrcfail_pendCnt : (addCrcfail s).pendCnt = s.pendCnt := rfl
@[simp] theorem addCrcfail_pendLen : (addCrcfail s).pendLen = s.pendLen := rfl
@[simp] theorem addCrcfail_pendFd : (addCrcfail s).pendFd = s.pendFd := rfl
@[simp] theorem addCrcfail_pendData : (addCrcfail s).pendData = s.pendData := rfl
@[simp] theorem addCrcfail_pendRx : (addCrcfail s).pendRx = s.pendRx := rfl
@[simp] theorem addCrcfail_groupOpen : (addCrcfail s).groupOpen = s.groupOpen := rfl
@[simp] theorem addCrcfail_cntDropped : (addCrcfail s).cntDropped = s.cntDropped := rfl
@[simp] theorem addCrcfail_cntSaved : (addCrcfail s).cntSaved = s.cntSaved := rfl
@[simp] theorem addCrcfail_cntCrcfail : (addCrcfail s).cntCrcfail = satAdd s.cntCrcfail 1 := rfl
@[simp] theorem addCrcfail_ended : (addCrcfail s).ended = s.ended := rfl
@[simp] theorem addCrcfail_outq : (addCrcfail s).outq = s.outq := rfl

/-! degrade -/

@[simp] theorem degrade_frameSize : (degrade s).frameSize = s.frameSize := rfl
@[simp] theorem degrade_port : (degrade s).port = s.port := rfl
@[simp] theorem degrade_keepCorrupt : (degrade s).keepCorrupt = s.keepCorrupt := rfl
@[simp] theorem degrade_haveLast : (degrade s).haveLast = s.haveLast := rfl
@[simp] theorem degrade_lastCtr : (degrade s).lastCtr = s.lastCtr := rfl
@[simp] theorem degrade_lastVer : (degrade s).lastVer = s.lastVer := rfl
@[simp] theorem degrade_lastScid : (degrade s).lastScid = s.lastScid := rfl
@[simp] theorem degrade_lastVcid : (degrade s).lastVcid = s.lastVcid := rfl
@[simp] theorem degrade_lastFhp : (degrade s).lastFhp = s.lastFhp := rfl
@[simp] theorem degrade_carry : (degrade s).carry = s.carry := rfl
@[simp] theorem degrade_carryGap : (degrade s).carryGap = (if s.carry.length > 0 then true else s.carryGap) := rfl
@[simp] theorem degrade_activeValid : (degrade s).activeValid = s.activeValid := rfl
@[simp] theorem degrade_pendVer : (degrade s).pendVer = s.pendVer := rfl
@[simp] theorem degrade_pendType : (degrade s).pendType = s.pendType := rfl
@[simp] theorem degrade_pendShf : (degrade s).pendShf = s.pendShf := rfl
@[simp] theorem degrade_pendApid : (degrade s).pendApid = s.pendApid := rfl
@[simp] theorem degrade_pendSf : (degrade s).pendSf = s.pendSf := rfl
@[simp] theorem degrade_pendCnt : (degrade s).pendCnt = s.pendCnt := rfl
@[simp] theorem degrade_pendLen : (degrade s).pendLen = s.pendLen := rfl
@[simp] theorem degrade_pendFd : (degrade s).pendFd = (if s.activeValid then true else s.pendFd) := rfl
@[simp] theorem degrade_pendData : (degrade s).pendData = s.pendData := rfl
@[simp] theorem degrade_pendRx : (degrade s).pendRx = s.pendRx := rfl
@[simp] theorem degrade_groupOpen : (degrade s).groupOpen = s.groupOpen := rfl
@[simp] theorem degrade_cntDropped : (degrade s).cntDropped = s.cntDropped := rfl
@[simp] theorem degrade_cntSaved : (degrade s).cntSaved = s.cntSaved := rfl
@[simp] theorem degrade_cntCrcfail : (degrade s).cntCrcfail = s.cntCrcfail := rfl
@[simp] theorem degrade_ended : (degrade s).ended = s.ended := rfl
@[simp] theorem degrade_outq : (degrade s).outq = s.outq := rfl

/-! recordCtr -/

@[simp] theorem recordCtr_frameSize (c : BitVec 24) : (recordCtr c s).frameSize = s.frameSize := rfl
@[simp] theorem recordCtr_port (c : BitVec 24) : (recordCtr c s).port = s.port := rfl
@[simp] theorem recordCtr_keepCorrupt (c : BitVec 24) : (recordCtr c s).keepCorrupt = s.keepCorrupt := rfl
@[simp] theorem recordCtr_haveLast (c : BitVec 24) : (recordCtr c s).haveLast = true := rfl
@[simp] theorem recordCtr_lastCtr (c : BitVec 24) : (recordCtr c s).lastCtr = c := rfl
@[simp] theorem recordCtr_lastVer (c : BitVec 24) : (recordCtr c s).lastVer = s.lastVer := rfl
@[simp] theorem recordCtr_lastScid (c : BitVec 24) : (recordCtr c s).lastScid = s.lastScid := rfl
@[simp] theorem recordCtr_lastVcid (c : BitVec 24) : (recordCtr c s).lastVcid = s.lastVcid := rfl
@[simp] theorem recordCtr_lastFhp (c : BitVec 24) : (recordCtr c s).lastFhp = s.lastFhp := rfl
@[simp] theorem recordCtr_carry (c : BitVec 24) : (recordCtr c s).carry = s.carry := rfl
@[simp] theorem recordCtr_carryGap (c : BitVec 24) : (recordCtr c s).carryGap = s.carryGap := rfl
@[simp] theorem recordCtr_activeValid (c : BitVec 24) : (recordCtr c s).activeValid = s.activeValid := rfl
@[simp] theorem recordCtr_pendVer (c : BitVec 24) : (recordCtr c s).pendVer = s.pendVer := rfl
@[simp] theorem recordCtr_pendType (c : BitVec 24) : (recordCtr c s).pendType = s.pendType := rfl
@[simp] theorem recordCtr_pendShf (c : BitVec 24) : (recordCtr c s).pendShf = s.pendShf := rfl
@[simp] theorem recordCtr_pendApid (c : BitVec 24) : (recordCtr c s).pendApid = s.pendApid := rfl
@[simp] theorem recordCtr_pendSf (c : BitVec 24) : (recordCtr c s).pendSf = s.pendSf := rfl
@[simp] theorem recordCtr_pendCnt (c : BitVec 24) : (recordCtr c s).pendCnt = s.pendCnt := rfl
@[simp] theorem recordCtr_pendLen (c : BitVec 24) : (recordCtr c s).pendLen = s.pendLen := rfl
@[simp] theorem recordCtr_pendFd (c : BitVec 24) : (recordCtr c s).pendFd = s.pendFd := rfl
@[simp] theorem recordCtr_pendData (c : BitVec 24) : (recordCtr c s).pendData = s.pendData := rfl
@[simp] theorem recordCtr_pendRx (c : BitVec 24) : (recordCtr c s).pendRx = s.pendRx := rfl
@[simp] theorem recordCtr_groupOpen (c : BitVec 24) : (recordCtr c s).groupOpen = s.groupOpen := rfl
@[simp] theorem recordCtr_cntDropped (c : BitVec 24) : (recordCtr c s).cntDropped = s.cntDropped := rfl
@[simp] theorem recordCtr_cntSaved (c : BitVec 24) : (recordCtr c s).cntSaved = s.cntSaved := rfl
@[simp] theorem recordCtr_cntCrcfail (c : BitVec 24) : (recordCtr c s).cntCrcfail = s.cntCrcfail := rfl
@[simp] theorem recordCtr_ended (c : BitVec 24) : (recordCtr c s).ended = s.ended := rfl
@[simp] theorem recordCtr_outq (c : BitVec 24) : (recordCtr c s).outq = s.outq := rfl

/-! recordHeader -/

@[simp] theorem recordHeader_frameSize (v : BitVec 2) (a b : BitVec 6) : (recordHeader v a b s).frameSize = s.frameSize := rfl
@[simp] theorem recordHeader_port (v : BitVec 2) (a b : BitVec 6) : (recordHeader v a b s).port = s.port := rfl
@[simp] theorem recordHeader_keepCorrupt (v : BitVec 2) (a b : BitVec 6) : (recordHeader v a b s).keepCorrupt = s.keepCorrupt := rfl
@[simp] theorem recordHeader_haveLast (v : BitVec 2) (a b : BitVec 6) : (recordHeader v a b s).haveLast = s.haveLast := rfl
@[simp] theorem recordHeader_lastCtr (v : BitVec 2) (a b : BitVec 6) : (recordHeader v a b s).lastCtr = s.lastCtr := rfl
@[simp] theorem recordHeader_lastVer (v : BitVec 2) (a b : BitVec 6) : (recordHeader v a b s).lastVer = v := rfl
@[simp] theorem recordHeader_lastScid (v : BitVec 2) (a b : BitVec 6) : (recordHeader v a b s).lastScid = a := rfl
@[simp] theorem recordHeader_lastVcid (v : BitVec 2) (a b : BitVec 6) : (recordHeader v a b s).lastVcid = b := rfl
@[simp] theorem recordHeader_lastFhp (v : BitVec 2) (a b : BitVec 6) : (recordHeader v a b s).lastFhp = s.lastFhp := rfl
@[simp] theorem recordHeader_carry (v : BitVec 2) (a b : BitVec 6) : (recordHeader v a b s).carry = s.carry := rfl
@[simp] theorem recordHeader_carryGap (v : BitVec 2) (a b : BitVec 6) : (recordHeader v a b s).carryGap = s.carryGap := rfl
@[simp] theorem recordHeader_activeValid (v : BitVec 2) (a b : BitVec 6) : (recordHeader v a b s).activeValid = s.activeValid := rfl
@[simp] theorem recordHeader_pendVer (v : BitVec 2) (a b : BitVec 6) : (recordHeader v a b s).pendVer = s.pendVer := rfl
@[simp] theorem recordHeader_pendType (v : BitVec 2) (a b : BitVec 6) : (recordHeader v a b s).pendType = s.pendType := rfl
@[simp] theorem recordHeader_pendShf (v : BitVec 2) (a b : BitVec 6) : (recordHeader v a b s).pendShf = s.pendShf := rfl
@[simp] theorem recordHeader_pendApid (v : BitVec 2) (a b : BitVec 6) : (recordHeader v a b s).pendApid = s.pendApid := rfl
@[simp] theorem recordHeader_pendSf (v : BitVec 2) (a b : BitVec 6) : (recordHeader v a b s).pendSf = s.pendSf := rfl
@[simp] theorem recordHeader_pendCnt (v : BitVec 2) (a b : BitVec 6) : (recordHeader v a b s).pendCnt = s.pendCnt := rfl
@[simp] theorem recordHeader_pendLen (v : BitVec 2) (a b : BitVec 6) : (recordHeader v a b s).pendLen = s.pendLen := rfl
@[simp] theorem recordHeader_pendFd (v : BitVec 2) (a b : BitVec 6) : (recordHeader v a b s).pendFd = s.pendFd := rfl
@[simp] theorem recordHeader_pendData (v : BitVec 2) (a b : BitVec 6) : (recordHeader v a b s).pendData = s.pendData := rfl
@[simp] theorem recordHeader_pendRx (v : BitVec 2) (a b : BitVec 6) : (recordHeader v a b s).pendRx = s.pendRx := rfl
@[simp] theorem recordHeader_groupOpen (v : BitVec 2) (a b : BitVec 6) : (recordHeader v a b s).groupOpen = s.groupOpen := rfl
@[simp] theorem recordHeader_cntDropped (v : BitVec 2) (a b : BitVec 6) : (recordHeader v a b s).cntDropped = s.cntDropped := rfl
@[simp] theorem recordHeader_cntSaved (v : BitVec 2) (a b : BitVec 6) : (recordHeader v a b s).cntSaved = s.cntSaved := rfl
@[simp] theorem recordHeader_cntCrcfail (v : BitVec 2) (a b : BitVec 6) : (recordHeader v a b s).cntCrcfail = s.cntCrcfail := rfl
@[simp] theorem recordHeader_ended (v : BitVec 2) (a b : BitVec 6) : (recordHeader v a b s).ended = s.ended := rfl
@[simp] theorem recordHeader_outq (v : BitVec 2) (a b : BitVec 6) : (recordHeader v a b s).outq = s.outq := rfl

/-! recordFhp -/

@[simp] theorem recordFhp_frameSize (f : BitVec 11) : (recordFhp f s).frameSize = s.frameSize := rfl
@[simp] theorem recordFhp_port (f : BitVec 11) : (recordFhp f s).port = s.port := rfl
@[simp] theorem recordFhp_keepCorrupt (f : BitVec 11) : (recordFhp f s).keepCorrupt = s.keepCorrupt := rfl
@[simp] theorem recordFhp_haveLast (f : BitVec 11) : (recordFhp f s).haveLast = s.haveLast := rfl
@[simp] theorem recordFhp_lastCtr (f : BitVec 11) : (recordFhp f s).lastCtr = s.lastCtr := rfl
@[simp] theorem recordFhp_lastVer (f : BitVec 11) : (recordFhp f s).lastVer = s.lastVer := rfl
@[simp] theorem recordFhp_lastScid (f : BitVec 11) : (recordFhp f s).lastScid = s.lastScid := rfl
@[simp] theorem recordFhp_lastVcid (f : BitVec 11) : (recordFhp f s).lastVcid = s.lastVcid := rfl
@[simp] theorem recordFhp_lastFhp (f : BitVec 11) : (recordFhp f s).lastFhp = f := rfl
@[simp] theorem recordFhp_carry (f : BitVec 11) : (recordFhp f s).carry = s.carry := rfl
@[simp] theorem recordFhp_carryGap (f : BitVec 11) : (recordFhp f s).carryGap = s.carryGap := rfl
@[simp] theorem recordFhp_activeValid (f : BitVec 11) : (recordFhp f s).activeValid = s.activeValid := rfl
@[simp] theorem recordFhp_pendVer (f : BitVec 11) : (recordFhp f s).pendVer = s.pendVer := rfl
@[simp] theorem recordFhp_pendType (f : BitVec 11) : (recordFhp f s).pendType = s.pendType := rfl
@[simp] theorem recordFhp_pendShf (f : BitVec 11) : (recordFhp f s).pendShf = s.pendShf := rfl
@[simp] theorem recordFhp_pendApid (f : BitVec 11) : (recordFhp f s).pendApid = s.pendApid := rfl
@[simp] theorem recordFhp_pendSf (f : BitVec 11) : (recordFhp f s).pendSf = s.pendSf := rfl
@[simp] theorem recordFhp_pendCnt (f : BitVec 11) : (recordFhp f s).pendCnt = s.pendCnt := rfl
@[simp] theorem recordFhp_pendLen (f : BitVec 11) : (recordFhp f s).pendLen = s.pendLen := rfl
@[simp] theorem recordFhp_pendFd (f : BitVec 11) : (recordFhp f s).pendFd = s.pendFd := rfl
@[simp] theorem recordFhp_pendData (f : BitVec 11) : (recordFhp f s).pendData = s.pendData := rfl
@[simp] theorem recordFhp_pendRx (f : BitVec 11) : (recordFhp f s).pendRx = s.pendRx := rfl
@[simp] theorem recordFhp_groupOpen (f : BitVec 11) : (recordFhp f s).groupOpen = s.groupOpen := rfl
@[simp] theorem recordFhp_cntDropped (f : BitVec 11) : (recordFhp f s).cntDropped = s.cntDropped := rfl
@[simp] theorem recordFhp_cntSaved (f : BitVec 11) : (recordFhp f s).cntSaved = s.cntSaved := rfl
@[simp] theorem recordFhp_cntCrcfail (f : BitVec 11) : (recordFhp f s).cntCrcfail = s.cntCrcfail := rfl
@[simp] theorem recordFhp_ended (f : BitVec 11) : (recordFhp f s).ended = s.ended := rfl
@[simp] theorem recordFhp_outq (f : BitVec 11) : (recordFhp f s).outq = s.outq := rfl

/-! setEnded -/

@[simp] theorem setEnded_frameSize : (setEnded s).frameSize = s.frameSize := rfl
@[simp] theorem setEnded_port : (setEnded s).port = s.port := rfl
@[simp] theorem setEnded_keepCorrupt : (setEnded s).keepCorrupt = s.keepCorrupt := rfl
@[simp] theorem setEnded_haveLast : (setEnded s).haveLast = s.haveLast := rfl
@[simp] theorem setEnded_lastCtr : (setEnded s).lastCtr = s.lastCtr := rfl
@[simp] theorem setEnded_lastVer : (setEnded s).lastVer = s.lastVer := rfl
@[simp] theorem setEnded_lastScid : (setEnded s).lastScid = s.lastScid := rfl
@[simp] theorem setEnded_lastVcid : (setEnded s).lastVcid = s.lastVcid := rfl
@[simp] theorem setEnded_lastFhp : (setEnded s).lastFhp = s.lastFhp := rfl
@[simp] theorem setEnded_carry : (setEnded s).carry = s.carry := rfl
@[simp] theorem setEnded_carryGap : (setEnded s).carryGap = s.carryGap := rfl
@[simp] theorem setEnded_activeValid : (setEnded s).activeValid = s.activeValid := rfl
@[simp] theorem setEnded_pendVer : (setEnded s).pendVer = s.pendVer := rfl
@[simp] theorem setEnded_pendType : (setEnded s).pendType = s.pendType := rfl
@[simp] theorem setEnded_pendShf : (setEnded s).pendShf = s.pendShf := rfl
@[simp] theorem setEnded_pendApid : (setEnded s).pendApid = s.pendApid := rfl
@[simp] theorem setEnded_pendSf : (setEnded s).pendSf = s.pendSf := rfl
@[simp] theorem setEnded_pendCnt : (setEnded s).pendCnt = s.pendCnt := rfl
@[simp] theorem setEnded_pendLen : (setEnded s).pendLen = s.pendLen := rfl
@[simp] theorem setEnded_pendFd : (setEnded s).pendFd = s.pendFd := rfl
@[simp] theorem setEnded_pendData : (setEnded s).pendData = s.pendData := rfl
@[simp] theorem setEnded_pendRx : (setEnded s).pendRx = s.pendRx := rfl
@[simp] theorem setEnded_groupOpen : (setEnded s).groupOpen = s.groupOpen := rfl
@[simp] theorem setEnded_cntDropped : (setEnded s).cntDropped = s.cntDropped := rfl
@[simp] theorem setEnded_cntSaved : (setEnded s).cntSaved = s.cntSaved := rfl
@[simp] theorem setEnded_cntCrcfail : (setEnded s).cntCrcfail = s.cntCrcfail := rfl
@[simp] theorem setEnded_ended : (setEnded s).ended = true := rfl
@[simp] theorem setEnded_outq : (setEnded s).outq = s.outq := rfl

/-! resetState -/

@[simp] theorem resetState_frameSize : (resetState s).frameSize = s.frameSize := rfl
@[simp] theorem resetState_port : (resetState s).port = s.port := rfl
@[simp] theorem resetState_keepCorrupt : (resetState s).keepCorrupt = false := rfl
@[simp] theorem resetState_haveLast : (resetState s).haveLast = false := rfl
@[simp] theorem resetState_lastCtr : (resetState s).lastCtr = 0#24 := rfl
@[simp] theorem resetState_lastVer : (resetState s).lastVer = 0#2 := rfl
@[simp] theorem resetState_lastScid : (resetState s).lastScid = 0#6 := rfl
@[simp] theorem resetState_lastVcid : (resetState s).lastVcid = 0#6 := rfl
@[simp] theorem resetState_lastFhp : (resetState s).lastFhp = 0#11 := rfl
@[simp] theorem resetState_carry : (resetState s).carry = [] := rfl
@[simp] theorem resetState_carryGap : (resetState s).carryGap = false := rfl
@[simp] theorem resetState_activeValid : (resetState s).activeValid = false := rfl
@[simp] theorem resetState_pendVer : (resetState s).pendVer = 0#3 := rfl
@[simp] theorem resetState_pendType : (resetState s).pendType = 0#1 := rfl
@[simp] theorem resetState_pendShf : (resetState s).pendShf = 0#1 := rfl
@[simp] theorem resetState_pendApid : (resetState s).pendApid = 0#11 := rfl
@[simp] theorem resetState_pendSf : (resetState s).pendSf = 0#2 := rfl
@[simp] theorem resetState_pendCnt : (resetState s).pendCnt = 0#14 := rfl
@[simp] theorem resetState_pendLen : (resetState s).pendLen = 0#17 := rfl
@[simp] theorem resetState_pendFd : (resetState s).pendFd = false := rfl
@[simp] theorem resetState_pendData : (resetState s).pendData = [] := rfl
@[simp] theorem resetState_pendRx : (resetState s).pendRx = 0#32 := rfl
@[simp] theorem resetState_groupOpen : (resetState s).groupOpen = 0#2047 := rfl
@[simp] theorem resetState_cntDropped : (resetState s).cntDropped = 0#32 := rfl
@[simp] theorem resetState_cntSaved : (resetState s).cntSaved = 0#32 := rfl
@[simp] theorem resetState_cntCrcfail : (resetState s).cntCrcfail = 0#32 := rfl
@[simp] theorem resetState_ended : (resetState s).ended = false := rfl
@[simp] theorem resetState_outq : (resetState s).outq = s.outq := rfl

/-! Power-on (R46, R210, R212). -/

@[simp] theorem powerOn_frameSize (n : Nat) : (State.powerOn n).frameSize = n := rfl
@[simp] theorem powerOn_port (n : Nat) : (State.powerOn n).port = [] := rfl
@[simp] theorem powerOn_keepCorrupt (n : Nat) : (State.powerOn n).keepCorrupt = false := rfl
@[simp] theorem powerOn_haveLast (n : Nat) : (State.powerOn n).haveLast = false := rfl
@[simp] theorem powerOn_lastCtr (n : Nat) : (State.powerOn n).lastCtr = 0#24 := rfl
@[simp] theorem powerOn_lastVer (n : Nat) : (State.powerOn n).lastVer = 0#2 := rfl
@[simp] theorem powerOn_lastScid (n : Nat) : (State.powerOn n).lastScid = 0#6 := rfl
@[simp] theorem powerOn_lastVcid (n : Nat) : (State.powerOn n).lastVcid = 0#6 := rfl
@[simp] theorem powerOn_lastFhp (n : Nat) : (State.powerOn n).lastFhp = 0#11 := rfl
@[simp] theorem powerOn_carry (n : Nat) : (State.powerOn n).carry = [] := rfl
@[simp] theorem powerOn_carryGap (n : Nat) : (State.powerOn n).carryGap = false := rfl
@[simp] theorem powerOn_activeValid (n : Nat) : (State.powerOn n).activeValid = false := rfl
@[simp] theorem powerOn_pendVer (n : Nat) : (State.powerOn n).pendVer = 0#3 := rfl
@[simp] theorem powerOn_pendType (n : Nat) : (State.powerOn n).pendType = 0#1 := rfl
@[simp] theorem powerOn_pendShf (n : Nat) : (State.powerOn n).pendShf = 0#1 := rfl
@[simp] theorem powerOn_pendApid (n : Nat) : (State.powerOn n).pendApid = 0#11 := rfl
@[simp] theorem powerOn_pendSf (n : Nat) : (State.powerOn n).pendSf = 0#2 := rfl
@[simp] theorem powerOn_pendCnt (n : Nat) : (State.powerOn n).pendCnt = 0#14 := rfl
@[simp] theorem powerOn_pendLen (n : Nat) : (State.powerOn n).pendLen = 0#17 := rfl
@[simp] theorem powerOn_pendFd (n : Nat) : (State.powerOn n).pendFd = false := rfl
@[simp] theorem powerOn_pendData (n : Nat) : (State.powerOn n).pendData = [] := rfl
@[simp] theorem powerOn_pendRx (n : Nat) : (State.powerOn n).pendRx = 0#32 := rfl
@[simp] theorem powerOn_groupOpen (n : Nat) : (State.powerOn n).groupOpen = 0#2047 := rfl
@[simp] theorem powerOn_cntDropped (n : Nat) : (State.powerOn n).cntDropped = 0#32 := rfl
@[simp] theorem powerOn_cntSaved (n : Nat) : (State.powerOn n).cntSaved = 0#32 := rfl
@[simp] theorem powerOn_cntCrcfail (n : Nat) : (State.powerOn n).cntCrcfail = 0#32 := rfl
@[simp] theorem powerOn_ended (n : Nat) : (State.powerOn n).ended = false := rfl
@[simp] theorem powerOn_outq (n : Nat) : (State.powerOn n).outq = [] := rfl

end Sys2Proof.Machine
end

