-- ==== Sys2Proof/Laws/Flags.lean ====
section
/-! SUPPORT. Laws of the saturating counters, the counter verdict and the group bits. -/

namespace Sys2Proof.Machine

theorem satAdd_toNat (a : BitVec 32) (n : Nat) : (satAdd a n).toNat = min (a.toNat + n) Config.cntMax := by
  simp only [satAdd, BitVec.toNat_ofNat]
  exact Nat.mod_eq_of_lt (by simp only [Config.cntMax]; omega)

@[simp] theorem satAdd_zero (a : BitVec 32) : satAdd a 0 = a := by
  apply BitVec.eq_of_toNat_eq
  rw [satAdd_toNat]
  have := a.isLt
  simp only [Config.cntMax]
  omega

theorem satAdd_satAdd (a : BitVec 32) (m n : Nat) : satAdd (satAdd a m) n = satAdd a (m + n) := by
  apply BitVec.eq_of_toNat_eq
  simp only [satAdd_toNat, Config.cntMax]
  omega

theorem one_shift_getLsbD (a b : BitVec 11) (hb : b ≠ Config.apidFill) :
    (1#2047 <<< a.toNat).getLsbD b.toNat = decide (a = b) := by
  have h1 : b.toNat < 2047 := by
    have := b.isLt
    have : b.toNat ≠ 2047 := fun h => hb (BitVec.eq_of_toNat_eq (by simpa using h))
    omega
  by_cases hab : a = b
  · subst hab
    simp [h1]
  · have hn : a.toNat ≠ b.toNat := fun h => hab (BitVec.eq_of_toNat_eq h)
    simp only [BitVec.getLsbD_shiftLeft, h1, decide_true, Bool.true_and, hab, decide_false, Bool.and_eq_false_imp,
      Bool.not_eq_true', decide_eq_false_iff_not, not_lt]
    intro hle
    have : b.toNat - a.toNat ≠ 0 := by omega
    simp [BitVec.getLsbD_one, this]

/-- A group bit after an update: the updated APID has the new value, every other APID its old one. -/
theorem groupBit_setGroupBit (g : BitVec 2047) (a b : BitVec 11) (v : Bool) (hb : b ≠ Config.apidFill) :
    groupBit (setGroupBit g a v) b = if a = b then v else groupBit g b := by
  have h := one_shift_getLsbD a b hb
  have h1 : b.toNat < 2047 := by
    have := b.isLt
    have : b.toNat ≠ 2047 := fun h => hb (BitVec.eq_of_toNat_eq (by simpa using h))
    omega
  unfold groupBit setGroupBit
  by_cases hab : a = b
  · subst hab
    cases v <;> simp_all
  · have h' : (1#2047 <<< a.toNat).getLsbD b.toNat = false := by rw [h]; simp [hab]
    cases v
    · simp only [Bool.false_eq_true, if_false, BitVec.getLsbD_and, BitVec.getLsbD_not, h', h1, hab]
      simp
    · simp only [if_true, BitVec.getLsbD_or, h', hab, if_false, Bool.or_false]

/-- CounterCheck's three cases, as the rules R97 to R99 word them. -/
theorem ctrVerdict_inSequence (last ctr : BitVec 24) : ctrVerdict last ctr = .inSequence ↔ ctr - last = 1#24 := by
  unfold ctrVerdict ctrDelta
  split
  · simp_all
  · split <;> simp_all

theorem ctrVerdict_gap (last ctr : BitVec 24) :
    ctrVerdict last ctr = .gap ↔ last.toNat + 1 < ctr.toNat := by
  unfold ctrVerdict ctrDelta
  split
  · rename_i h
    simp only [reduceCtorEq, false_iff]
    bv_omega
  · split
    · simp only [true_iff]
      bv_omega
    · simp only [reduceCtorEq, false_iff]
      bv_omega

theorem ctrVerdict_anomaly (last ctr : BitVec 24) :
    ctrVerdict last ctr = .anomaly ↔ (ctr.toNat ≤ last.toNat ∧ ctr - last ≠ 1#24) := by
  unfold ctrVerdict ctrDelta
  split
  · simp_all
  · split
    · simp only [reduceCtorEq, false_iff]
      bv_omega
    · simp only [true_iff]
      constructor
      · bv_omega
      · assumption

/-- In a forward gap the count is `ctr - LAST_CTR - 1` as numbers (R97). -/
theorem missingFrames_toNat (last ctr : BitVec 24) (h : last.toNat + 1 < ctr.toNat) :
    (missingFrames last ctr).toNat = ctr.toNat - last.toNat - 1 := by
  unfold missingFrames
  bv_omega

end Sys2Proof.Machine
end

