-- ==== Sys2Proof/Laws/Memory.lean ====
section
/-! SUPPORT. Laws of slices and of the pending store: read after write, and every operation on the store keeps its one
form. -/

namespace Sys2Proof.Machine

theorem slice_zero (b : Bytes) (n : Nat) : slice b 0 n = b.take n := by simp [slice]

theorem slice_to_end (b : Bytes) (n : Nat) : slice b n b.length = b.drop n := by simp [slice]

theorem length_slice (b : Bytes) (lo hi : Nat) : (slice b lo hi).length = min hi b.length - lo := by
  simp [slice]

/-- What was written is what is read (R15). -/
theorem memRead_memWrite_same (m : Bytes) (a : Nat) (v : Bytes) (h : a ≤ m.length) :
    memRead (memWrite m a v) a v.length = v := by
  have h1 : (m.take a).length = a := by simp [h]
  simp [memRead, memWrite, slice, List.take_append, Nat.min_eq_left h]

/-- A byte outside the written range is left alone (R15). -/
theorem getElem_memWrite_other (m : Bytes) (a : Nat) (v : Bytes) (i : Nat) (h : a ≤ m.length)
    (hi : i < a ∨ a + v.length ≤ i) : (memWrite m a v)[i]? = m[i]? := by
  have h1 : (m.take a).length = a := by simp [h]
  unfold memWrite
  rcases hi with hi | hi
  · rw [List.append_assoc, List.getElem?_append_left (by omega), List.getElem?_take_of_lt hi]
  · rw [List.getElem?_append_right (by simp; omega), List.getElem?_drop]
    congr 1
    simp only [List.length_append, h1]
    omega

theorem storedCount_le_len (s : State) : storedCount s ≤ s.pendLen.toNat := Nat.min_le_right _ _

/-- In the one form of the store, the slot's DATA is all of it. -/
theorem slotPacket_data (s : State) (h : Memory.wf s) : (slotPacket s).data = s.pendData := by
  show slice s.pendData 0 (0 + storedCount s) = _
  rw [slice_zero, Nat.zero_add, List.take_of_length_le (by have := h.1; omega)]

/-- AppendPend in the one form of the store (R58): the new bytes follow the old ones, as far as they fit. -/
theorem appendPend_data (b : Bytes) (s : State) (h : Memory.wf s) :
    (appendPend b s).pendData = s.pendData ++ b.take (s.pendLen.toNat - storedCount s) := by
  have h1 := h.1
  rw [appendPend_pendData, slice_zero]
  unfold memWrite
  rw [List.take_of_length_le (by omega), List.drop_eq_nil_of_le (by omega), List.append_nil]

theorem storedCount_appendPend (b : Bytes) (s : State) :
    storedCount (appendPend b s) = min (s.pendRx.toNat + b.length) s.pendLen.toNat := by
  have := s.pendLen.isLt
  simp only [storedCount, appendPend_pendRx, appendPend_pendLen, satAdd_toNat, Config.cntMax]
  omega

/-- AppendPend keeps the one form of the store. -/
theorem appendPend_wf (b : Bytes) (s : State) (h : Memory.wf s) (hl : s.pendLen.toNat ≤ Config.pendCap) :
    Memory.wf (appendPend b s) := by
  have h1 := h.1
  have h2 := storedCount_appendPend b s
  have h3 : (appendPend b s).pendData.length = storedCount (appendPend b s) := by
    rw [appendPend_data b s h, h2, List.length_append, List.length_take]
    unfold storedCount at *
    omega
  refine ⟨h3, ?_⟩
  rw [h3]
  exact Nat.le_trans (storedCount_le_len _) (by simpa using hl)

/-- ReleaseSlot leaves the store empty. -/
theorem releaseSlot_wf (s : State) : Memory.wf (releaseSlot s) := by
  simp [Memory.wf, storedCount]

theorem dataLength_toNat (h : PacketHeader) : (dataLength h).toNat = h.lenField.toNat + 1 := by
  have := h.lenField.isLt
  simp only [dataLength, BitVec.toNat_ofNat]
  exact Nat.mod_eq_of_lt (by omega)

theorem packetOf_data (h : PacketHeader) (rest : Bytes) (fd : Bool) :
    (packetOf h rest fd).data = rest.take (dataLength h).toNat := slice_zero _ _

theorem packetOf_rx (h : PacketHeader) (rest : Bytes) (fd : Bool) :
    (packetOf h rest fd).rx.toNat = min (dataLength h).toNat rest.length := by
  have h1 := (dataLength h).isLt
  simp only [packetOf, length_slice, Nat.sub_zero, BitVec.toNat_ofNat]
  exact Nat.mod_eq_of_lt (by omega)

/-- MakeActive on a packet value that holds min(RX, L) bytes leaves the store in its one form. -/
theorem makeActive_wf (p : Packet) (s : State) (h : p.data.length = min p.rx.toNat p.len.toNat)
    (hl : p.len.toNat ≤ Config.pendCap) : Memory.wf (makeActive p s) := by
  refine ⟨by simpa [storedCount] using h, ?_⟩
  simp only [makeActive_pendData]
  omega

end Sys2Proof.Machine
end

