-- ==== Sys2Proof/Laws/Flush.lean ====
section
/-! SUPPORT. Flush, said once: the records it appends, as a function of the packet and KEEP_CORRUPT, and the two
counters that follow from them. -/

namespace Sys2Proof.Machine

/-- The records Flush appends, in its order (R154, R170). -/
def flushRecords (p : Packet) (keep : Bool) : List Record :=
  if p.apid = Config.apidFill then []
  else if p.rx.toNat < p.len.toNat then [.evt (sizeEvent p .short)]
  else
    (if p.len.toNat < p.rx.toNat then [.evt (sizeEvent p .long)] else [])
      ++ (if (verdict p).ok then [] else [.evt (crcEvent p (verdict p) keep)])
      ++ (if (verdict p).ok || keep then [.pkt (pktRecord p (verdict p) (decide (p.len.toNat < p.rx.toNat)))] else [])

/-- `s` with the records `l` appended and CNT_SAVED and CNT_CRCFAIL grown by what they count. -/
def absorb (l : List Record) (s : State) : State :=
  { s with
    outq := s.outq ++ l
    cntSaved := satAdd s.cntSaved (total savedBy l)
    cntCrcfail := satAdd s.cntCrcfail (total failedBy l) }

theorem total_append (f : Record → Nat) (a b : List Record) : total f (a ++ b) = total f a + total f b := by
  simp [total]

@[simp] theorem total_nil (f : Record → Nat) : total f [] = 0 := rfl

@[simp] theorem total_cons (f : Record → Nat) (r : Record) (l : List Record) : total f (r :: l) = f r + total f l := by
  simp [total]

theorem absorb_absorb (a b : List Record) (s : State) : absorb b (absorb a s) = absorb (a ++ b) s := by
  simp [absorb, satAdd_satAdd, total_append]

@[simp] theorem absorb_nil (s : State) : absorb [] s = s := by simp [absorb]

/-- A size, orphan or discard event counts in neither counter. -/
theorem raiseEvent_eq_absorb (e : Event) (s : State) (h : failedBy (.evt e) = 0) :
    raiseEvent e s = absorb [.evt e] s := by
  simp [absorb, raiseEvent, emit, savedBy, h]

theorem crcStep_eq_absorb (p : Packet) (v : Verdict) (s : State) :
    crcStep p v s = absorb (if v.ok then [] else [.evt (crcEvent p v s.keepCorrupt)]) s := by
  unfold crcStep
  split <;> simp [absorb, raiseEvent, emit, addCrcfail, savedBy, failedBy, crcEvent]

theorem releaseStep_eq_absorb (p : Packet) (v : Verdict) (long : Bool) (s : State) :
    releaseStep p v long s = absorb (if v.ok || s.keepCorrupt then [.pkt (pktRecord p v long)] else []) s := by
  unfold releaseStep
  split <;> simp [absorb, emit, addSaved, savedBy, failedBy]

@[simp] theorem absorb_keepCorrupt (l : List Record) (s : State) : (absorb l s).keepCorrupt = s.keepCorrupt := rfl

/-- Everything Flush does. -/
theorem flush_eq_absorb (p : Packet) (s : State) : flush p s = absorb (flushRecords p s.keepCorrupt) s := by
  unfold flush flushRecords
  split
  · simp
  · split
    · exact raiseEvent_eq_absorb _ _ rfl
    · have hr : raiseEvent (sizeEvent p .long) s = absorb [.evt (sizeEvent p .long)] s := raiseEvent_eq_absorb _ _ rfl
      split
      · rename_i h
        rw [hr, crcStep_eq_absorb, releaseStep_eq_absorb, absorb_absorb, absorb_absorb]
        simp [h]
      · rename_i h
        rw [crcStep_eq_absorb, releaseStep_eq_absorb, absorb_absorb]
        simp [h]

/-- Flush appends at most three records (R223). -/
theorem length_flushRecords_le (p : Packet) (keep : Bool) : (flushRecords p keep).length ≤ 3 := by
  unfold flushRecords
  repeat' split
  all_goals simp

/-- A flush without a size event appends at most two records. -/
theorem length_flushRecords_exact (p : Packet) (keep : Bool) (h : p.rx.toNat = p.len.toNat) :
    (flushRecords p keep).length ≤ 2 := by
  unfold flushRecords
  rw [h]
  repeat' split
  all_goals simp_all

theorem verdict_crcCalc (p : Packet) : (verdict p).crcCalc = config.crc16Fn (verdict p).payload := by
  unfold verdict
  split <;> rfl

theorem verdict_ok (p : Packet) :
    (verdict p).ok = true ↔ ((verdict p).crcRx = (verdict p).crcCalc ∧ 2 ≤ p.len.toNat) := by
  unfold verdict
  split
  · rename_i h
    simp only [validateCrc, decide_eq_true_eq, h, and_true]
    exact eq_comm
  · rename_i h
    simp [h]

theorem length_verdict_payload (p : Packet) (h : p.data.length = min p.rx.toNat p.len.toNat)
    (hr : ¬ p.rx.toNat < p.len.toNat) : (verdict p).payload.length = p.len.toNat - 2 := by
  unfold verdict
  split
  · simp only [length_slice, Nat.sub_zero]
    omega
  · simp only [List.length_nil]
    omega

theorem groupEndOf_iff (sf : BitVec 2) : groupEndOf sf = true ↔ (sf = 2#2 ∨ sf = 3#2) := by
  simp [groupEndOf]

/-- Every PKT record Flush appends is as R163 says, for a packet value that holds min(RX, L) bytes. -/
theorem flushRecords_ok (p : Packet) (keep : Bool) (h : p.data.length = min p.rx.toNat p.len.toNat) :
    RecordsOk (flushRecords p keep) := by
  intro r hr
  unfold flushRecords at hr
  split at hr
  · simp at hr
  · rename_i hf
    split at hr
    · simp at hr
    · rename_i hs
      simp only [List.mem_append] at hr
      rcases hr with (hr | hr) | hr
      · split at hr <;> simp at hr
      · split at hr <;> simp at hr
      · split at hr
        · simp only [List.mem_singleton, Record.pkt.injEq] at hr
          subst hr
          exact ⟨hf, length_verdict_payload p h hs, verdict_crcCalc p, verdict_ok p, groupEndOf_iff _⟩
        · simp at hr

end Sys2Proof.Machine
end

