-- ==== Sys2Proof/Laws/Parse.lean ====
section
/-! SUPPORT. Parse, as the loop of R127 without its bound: three unfolding lemmas, one induction principle, and what
follows from them (what it leaves alone, how it ends, what it appends). -/

namespace Sys2Proof.Machine

/-- The header at the front of a buffer. -/
abbrev frontHeader (buf : Bytes) : PacketHeader := parseHeader (slice buf 0 6)

/-- The bytes after it: `rest = buf[6..|buf|)`. -/
abbrev afterHeader (buf : Bytes) : Bytes := slice buf 6 buf.length

/-- The bytes after the front packet: `rest[L..|rest|)`. -/
abbrev afterPacket (buf : Bytes) : Bytes :=
  slice (afterHeader buf) (dataLength (frontHeader buf)).toNat (afterHeader buf).length

theorem length_afterHeader (buf : Bytes) : (afterHeader buf).length = buf.length - 6 := by
  simp [length_slice]

theorem length_afterPacket (buf : Bytes) :
    (afterPacket buf).length = buf.length - 6 - (dataLength (frontHeader buf)).toNat := by
  simp only [length_slice]
  omega

theorem one_le_dataLength (h : PacketHeader) : 1 ≤ (dataLength h).toNat := by
  rw [dataLength_toNat]
  omega

/-- The loop's bound is never reached (R145): with enough passes left, one more changes nothing. -/
theorem parseLoop_bound : ∀ (n m : Nat) (buf : Bytes) (g : Bool) (s : State),
    buf.length / 7 + 1 ≤ n → buf.length / 7 + 1 ≤ m → parseLoop n buf g s = parseLoop m buf g s
  | 0, _, _, _, _, h, _ => by omega
  | _ + 1, 0, _, _, _, _, h => by omega
  | n + 1, m + 1, buf, g, s, hn, hm => by
    simp only [parseLoop]
    split
    · rfl
    · rename_i hlen
      unfold parsePass
      dsimp only
      split
      · rename_i t next heq
        split at heq
        · rename_i hlt
          simp only [Prod.mk.injEq, Option.some.injEq] at heq
          obtain ⟨-, rfl⟩ := heq
          have h1 := length_afterHeader buf
          have h2 := length_afterPacket buf
          have h3 := one_le_dataLength (frontHeader buf)
          have h4 : (dataLength (frontHeader buf)).toNat < (afterHeader buf).length := hlt
          have h5 : (afterPacket buf).length / 7 + 1 ≤ buf.length / 7 := by
            rw [h2]
            omega
          exact parseLoop_bound n m (afterPacket buf) false _ (h5.trans (by omega)) (h5.trans (by omega))
        · simp at heq
      · rfl

/-- A buffer too short for a header is kept in CARRY (R128). -/
theorem parse_short (buf : Bytes) (g : Bool) (s : State) (h : buf.length < 6) :
    parse buf g s = setCarry buf (g && buf.length != 0) s := by
  simp [parse, parseLoop, h]

/-- The front packet ends inside the buffer: it is flushed, if there is one, and the loop goes on (R140, R141). -/
theorem parse_next (buf : Bytes) (g : Bool) (s : State) (h : 6 ≤ buf.length)
    (hl : (dataLength (frontHeader buf)).toNat < (afterHeader buf).length) :
    parse buf g s = parse (afterPacket buf) false
      (flushOpt (segmentAccept (frontHeader buf) (afterHeader buf) g s).1
        (segmentAccept (frontHeader buf) (afterHeader buf) g s).2) := by
  have h1 := length_afterHeader buf
  have h2 := length_afterPacket buf
  have h3 := one_le_dataLength (frontHeader buf)
  conv_lhs => unfold parse
  unfold parseLoop
  rw [if_neg (by omega)]
  unfold parsePass
  dsimp only
  rw [if_pos hl]
  exact parseLoop_bound _ _ _ _ _ (by rw [h2]; omega) (Nat.le_refl _)

/-- The front packet reaches the end of the buffer: the loop stops (R142). -/
theorem parse_stop (buf : Bytes) (g : Bool) (s : State) (h : 6 ≤ buf.length)
    (hl : (afterHeader buf).length ≤ (dataLength (frontHeader buf)).toNat) :
    parse buf g s = setCarry [] false
      (makeActiveOpt (segmentAccept (frontHeader buf) (afterHeader buf) g s).1
        (segmentAccept (frontHeader buf) (afterHeader buf) g s).2) := by
  unfold parse parseLoop
  rw [if_neg (by omega)]
  unfold parsePass
  dsimp only
  rw [if_neg (Nat.not_lt.mpr hl)]

/-- Induction over the passes of Parse: what holds of each way to stop, and is kept by a pass that goes on, holds of
every call. -/
theorem parse_induction {P : Bytes → Bool → State → State → Prop}
    (short : ∀ buf g s, buf.length < 6 → P buf g s (setCarry buf (g && buf.length != 0) s))
    (stop : ∀ buf g s, 6 ≤ buf.length → (afterHeader buf).length ≤ (dataLength (frontHeader buf)).toNat →
      P buf g s (setCarry [] false
        (makeActiveOpt (segmentAccept (frontHeader buf) (afterHeader buf) g s).1
          (segmentAccept (frontHeader buf) (afterHeader buf) g s).2)))
    (next : ∀ buf g s t, 6 ≤ buf.length → (dataLength (frontHeader buf)).toNat < (afterHeader buf).length →
      P (afterPacket buf) false
        (flushOpt (segmentAccept (frontHeader buf) (afterHeader buf) g s).1
          (segmentAccept (frontHeader buf) (afterHeader buf) g s).2) t →
      P buf g s t) (buf : Bytes) (g : Bool) (s : State) : P buf g s (parse buf g s) := by
  induction hn : buf.length using Nat.strong_induction_on generalizing buf g s with
  | _ n ih =>
    by_cases h6 : buf.length < 6
    · rw [parse_short buf g s h6]
      exact short buf g s h6
    · by_cases hl : (dataLength (frontHeader buf)).toNat < (afterHeader buf).length
      · rw [parse_next buf g s (by omega) hl]
        refine next buf g s _ (by omega) hl (ih _ ?_ _ _ _ rfl)
        have h2 := length_afterPacket buf
        omega
      · rw [parse_stop buf g s (by omega) (by omega)]
        exact stop buf g s (by omega) (by omega)

/-! ### SegmentAccept -/

/-- The packet value of a segment, and the records and the group table after it, class by class (R132 to R138). -/
theorem segmentAccept_cases (h : PacketHeader) (rest : Bytes) (fd : Bool) (s : State) :
    (segmentAccept h rest fd s = (none, s) ∧ h.apid = Config.apidFill) ∨
    (segmentAccept h rest fd s = (none, orphan h s) ∧ h.apid ≠ Config.apidFill ∧ groupBit s.groupOpen h.apid = false ∧
      (h.sf = 0#2 ∨ h.sf = 2#2)) ∨
    (segmentAccept h rest fd s = (some (packetOf h rest fd), s) ∧ h.apid ≠ Config.apidFill ∧ h.sf = 0#2 ∧
      groupBit s.groupOpen h.apid = true) ∨
    (segmentAccept h rest fd s = (some (packetOf h rest fd), setGroup h.apid true s) ∧ h.apid ≠ Config.apidFill ∧
      h.sf = 1#2) ∨
    (segmentAccept h rest fd s = (some (packetOf h rest fd), setGroup h.apid false s) ∧ h.apid ≠ Config.apidFill ∧
      (h.sf = 3#2 ∨ (h.sf = 2#2 ∧ groupBit s.groupOpen h.apid = true))) := by
  by_cases hf : h.apid = Config.apidFill
  · left
    simp [segmentAccept, classOf, hf]
  · have h4 : h.sf = 0#2 ∨ h.sf = 1#2 ∨ h.sf = 2#2 ∨ h.sf = 3#2 := by bv_omega
    rcases h4 with h4 | h4 | h4 | h4 <;> cases hg : groupBit s.groupOpen h.apid <;>
      simp [segmentAccept, classOf, hf, h4, hg]

/-- A packet value always holds min(RX, L) bytes, is no fill packet and declares 1..65536 bytes. -/
theorem segmentAccept_some (h : PacketHeader) (rest : Bytes) (fd : Bool) (s : State) (p : Packet)
    (hp : (segmentAccept h rest fd s).1 = some p) : p = packetOf h rest fd ∧ p.apid ≠ Config.apidFill := by
  rcases segmentAccept_cases h rest fd s with ⟨he, -⟩ | ⟨he, -⟩ | ⟨he, hf, -⟩ | ⟨he, hf, -⟩ | ⟨he, hf, -⟩ <;>
    rw [he] at hp <;> simp only [reduceCtorEq, Option.some.injEq] at hp
  all_goals
    subst hp
    exact ⟨rfl, hf⟩

theorem packetOf_holds (h : PacketHeader) (rest : Bytes) (fd : Bool) :
    (packetOf h rest fd).data.length = min (packetOf h rest fd).rx.toNat (packetOf h rest fd).len.toNat := by
  rw [packetOf_data, packetOf_rx, List.length_take]
  show min (dataLength h).toNat rest.length = min (min (dataLength h).toNat rest.length) (dataLength h).toNat
  omega

/-! ### What Parse leaves alone -/

theorem SameReader.refl (s : State) : SameReader s s := by constructor <;> rfl

theorem SameReader.trans {a b c : State} (h : SameReader a b) (k : SameReader b c) : SameReader a c := by
  constructor
  · rw [k.frameSize, h.frameSize]
  · rw [k.port, h.port]
  · rw [k.keepCorrupt, h.keepCorrupt]
  · rw [k.haveLast, h.haveLast]
  · rw [k.lastCtr, h.lastCtr]
  · rw [k.lastVer, h.lastVer]
  · rw [k.lastScid, h.lastScid]
  · rw [k.lastVcid, h.lastVcid]
  · rw [k.lastFhp, h.lastFhp]
  · rw [k.cntDropped, h.cntDropped]
  · rw [k.ended, h.ended]

theorem sameReader_absorb (l : List Record) (s : State) : SameReader s (absorb l s) := by constructor <;> rfl

theorem sameReader_raiseEvent (e : Event) (s : State) : SameReader s (raiseEvent e s) := by constructor <;> rfl

theorem sameReader_setGroup (a : BitVec 11) (v : Bool) (s : State) : SameReader s (setGroup a v s) := by
  constructor <;> rfl

theorem sameReader_setCarry (b : Bytes) (g : Bool) (s : State) : SameReader s (setCarry b g s) := by
  constructor <;> rfl

theorem sameReader_flush (p : Packet) (s : State) : SameReader s (flush p s) := by
  rw [flush_eq_absorb]
  exact sameReader_absorb _ _

theorem sameReader_releaseSlot (s : State) : SameReader s (releaseSlot s) := by constructor <;> rfl

theorem sameReader_appendPend (b : Bytes) (s : State) : SameReader s (appendPend b s) := by constructor <;> rfl

theorem sameReader_flushSlot (s : State) : SameReader s (flushSlot s) :=
  (sameReader_releaseSlot s).trans (sameReader_flush _ _)

theorem sameReader_flushOpt (p : Option Packet) (s : State) : SameReader s (flushOpt p s) := by
  cases p with
  | none => exact SameReader.refl s
  | some p => exact sameReader_flush p s

theorem sameReader_makeActiveOpt (p : Option Packet) (s : State) : SameReader s (makeActiveOpt p s) := by
  cases p with
  | none => exact SameReader.refl s
  | some p => constructor <;> rfl

theorem sameReader_segmentAccept (h : PacketHeader) (rest : Bytes) (fd : Bool) (s : State) :
    SameReader s (segmentAccept h rest fd s).2 := by
  rcases segmentAccept_cases h rest fd s with ⟨he, -⟩ | ⟨he, -⟩ | ⟨he, -⟩ | ⟨he, -⟩ | ⟨he, -⟩ <;> rw [he]
  · exact SameReader.refl s
  · exact sameReader_raiseEvent _ s
  · exact SameReader.refl s
  · exact sameReader_setGroup _ _ s
  · exact sameReader_setGroup _ _ s

/-- Parse writes none of the elements of the Frame Reader, the port, CTRL or ENDED. -/
theorem sameReader_parse (buf : Bytes) (g : Bool) (s : State) : SameReader s (parse buf g s) := by
  refine parse_induction (P := fun _ _ s t => SameReader s t) ?_ ?_ ?_ buf g s
  · intro buf g s _
    exact sameReader_setCarry _ _ s
  · intro buf g s _ _
    exact ((sameReader_segmentAccept _ _ g s).trans (sameReader_makeActiveOpt _ _)).trans (sameReader_setCarry _ _ _)
  · intro buf g s t _ _ ih
    exact ((sameReader_segmentAccept _ _ g s).trans (sameReader_flushOpt _ _)).trans ih

/-! ### What Parse appends -/

/-- `t` extends the output of `s`, and the two Sink counters have grown by what the new records count. -/
def Accounts (s t : State) : Prop :=
  ∃ l, t.outq = s.outq ++ l ∧ t.cntSaved = satAdd s.cntSaved (total savedBy l)
    ∧ t.cntCrcfail = satAdd s.cntCrcfail (total failedBy l) ∧ total droppedBy l = 0

theorem Accounts.of_same {s t : State} (h1 : t.outq = s.outq) (h2 : t.cntSaved = s.cntSaved)
    (h3 : t.cntCrcfail = s.cntCrcfail) : Accounts s t := ⟨[], by simp [h1, h2, h3]⟩

theorem Accounts.trans {a b c : State} (h : Accounts a b) (k : Accounts b c) : Accounts a c := by
  obtain ⟨l, h1, h2, h3, h4⟩ := h
  obtain ⟨m, k1, k2, k3, k4⟩ := k
  refine ⟨l ++ m, ?_, ?_, ?_, ?_⟩
  · rw [k1, h1, List.append_assoc]
  · rw [k2, h2, satAdd_satAdd, total_append]
  · rw [k3, h3, satAdd_satAdd, total_append]
  · rw [total_append, h4, k4]

theorem accounts_absorb (l : List Record) (s : State) (h : total droppedBy l = 0) : Accounts s (absorb l s) :=
  ⟨l, rfl, rfl, rfl, h⟩

theorem accounts_raiseEvent (e : Event) (s : State) (h : failedBy (.evt e) = 0) (hd : droppedBy (.evt e) = 0) :
    Accounts s (raiseEvent e s) := by
  rw [raiseEvent_eq_absorb e s h]
  exact accounts_absorb _ s (by simpa using hd)

theorem dropped_flushRecords (p : Packet) (keep : Bool) : total droppedBy (flushRecords p keep) = 0 := by
  unfold flushRecords
  repeat' split
  all_goals simp [droppedBy, sizeEvent, crcEvent]

theorem accounts_flush (p : Packet) (s : State) : Accounts s (flush p s) := by
  rw [flush_eq_absorb]
  exact accounts_absorb _ s (dropped_flushRecords _ _)

theorem accounts_flushSlot (s : State) : Accounts s (flushSlot s) :=
  (Accounts.of_same rfl rfl rfl : Accounts s (releaseSlot s)).trans (accounts_flush _ _)

theorem accounts_flushOpt (p : Option Packet) (s : State) : Accounts s (flushOpt p s) := by
  cases p with
  | none => exact Accounts.of_same rfl rfl rfl
  | some p => exact accounts_flush p s

theorem accounts_segmentAccept (h : PacketHeader) (rest : Bytes) (fd : Bool) (s : State) :
    Accounts s (segmentAccept h rest fd s).2 := by
  rcases segmentAccept_cases h rest fd s with ⟨he, -⟩ | ⟨he, -⟩ | ⟨he, -⟩ | ⟨he, -⟩ | ⟨he, -⟩ <;> rw [he]
  · exact Accounts.of_same rfl rfl rfl
  · exact accounts_raiseEvent _ s rfl rfl
  · exact Accounts.of_same rfl rfl rfl
  · exact Accounts.of_same rfl rfl rfl
  · exact Accounts.of_same rfl rfl rfl

theorem accounts_makeActiveOpt (p : Option Packet) (s : State) : Accounts s (makeActiveOpt p s) := by
  cases p <;> exact Accounts.of_same rfl rfl rfl

theorem accounts_parse (buf : Bytes) (g : Bool) (s : State) : Accounts s (parse buf g s) := by
  refine parse_induction (P := fun _ _ s t => Accounts s t) ?_ ?_ ?_ buf g s
  · intro buf g s _
    exact Accounts.of_same rfl rfl rfl
  · intro buf g s _ _
    exact ((accounts_segmentAccept _ _ g s).trans (accounts_makeActiveOpt _ _)).trans
      (Accounts.of_same rfl rfl rfl)
  · intro buf g s t _ _ ih
    exact ((accounts_segmentAccept _ _ g s).trans (accounts_flushOpt _ _)).trans ih

end Sys2Proof.Machine
end

