-- ==== Sys2Proof/Laws/Demux.lean ====
section
/-! SUPPORT. The demultiplexer and the end of the stream: what they leave alone, what they append, and how they leave
what is being assembled. -/

namespace Sys2Proof.Machine

/-! ### What they leave alone -/

theorem sameReader_discardCarry (r : DiscardReason) (s : State) : SameReader s (discardCarry r s) := by
  constructor <;> rfl

theorem sameReader_resolveCarry (head : Bytes) (s : State) : SameReader s (resolveCarry head s) := by
  have h := (sameReader_setCarry [] false s).trans (sameReader_parse (s.carry ++ head) s.carryGap (setCarry [] false s))
  unfold resolveCarry
  dsimp only
  split
  · exact h.trans (sameReader_flushSlot _)
  · split
    · exact h.trans (sameReader_discardCarry _ _)
    · exact h

theorem sameReader_closeHead (head : Bytes) (s : State) : SameReader s (closeHead head s) := by
  unfold closeHead
  split
  · exact sameReader_resolveCarry head s
  · split
    · exact (sameReader_appendPend head s).trans (sameReader_flushSlot _)
    · unfold discardHead
      split
      · exact sameReader_raiseEvent _ s
      · exact SameReader.refl s

theorem sameReader_checkFhp (fhp : BitVec 11) (s : State) : SameReader s (checkFhp fhp s) := by
  unfold checkFhp
  split
  · exact sameReader_raiseEvent _ s
  · exact SameReader.refl s

/-- Demux writes none of the elements of the Frame Reader, the port, CTRL or ENDED. -/
theorem sameReader_demux (fhp : BitVec 11) (z : Bytes) (s : State) : SameReader s (demux fhp z s) := by
  unfold demux
  split
  · unfold demuxNoHdr
    split
    · exact sameReader_appendPend z s
    · exact (sameReader_setCarry [] false s).trans (sameReader_parse _ _ _)
  · exact ((sameReader_checkFhp fhp s).trans (sameReader_closeHead _ _)).trans (sameReader_parse _ _ _)

/-! ### What they append -/

theorem accounts_setCarry (b : Bytes) (g : Bool) (s : State) : Accounts s (setCarry b g s) :=
  Accounts.of_same rfl rfl rfl

theorem accounts_discardCarry (r : DiscardReason) (s : State) : Accounts s (discardCarry r s) :=
  (accounts_raiseEvent _ s rfl rfl).trans (accounts_setCarry _ _ _)

theorem accounts_resolveCarry (head : Bytes) (s : State) : Accounts s (resolveCarry head s) := by
  have h := (accounts_setCarry [] false s).trans (accounts_parse (s.carry ++ head) s.carryGap (setCarry [] false s))
  unfold resolveCarry
  dsimp only
  split
  · exact h.trans (accounts_flushSlot _)
  · split
    · exact h.trans (accounts_discardCarry _ _)
    · exact h

theorem accounts_closeHead (head : Bytes) (s : State) : Accounts s (closeHead head s) := by
  unfold closeHead
  split
  · exact accounts_resolveCarry head s
  · split
    · exact (Accounts.of_same rfl rfl rfl : Accounts s (appendPend head s)).trans (accounts_flushSlot _)
    · unfold discardHead
      split
      · exact accounts_raiseEvent _ s rfl rfl
      · exact Accounts.of_same rfl rfl rfl

theorem accounts_checkFhp (fhp : BitVec 11) (s : State) : Accounts s (checkFhp fhp s) := by
  unfold checkFhp
  split
  · exact accounts_raiseEvent _ s rfl rfl
  · exact Accounts.of_same rfl rfl rfl

/-- Demux appends records, and counts the packets and failures among them. -/
theorem accounts_demux (fhp : BitVec 11) (z : Bytes) (s : State) : Accounts s (demux fhp z s) := by
  unfold demux
  split
  · unfold demuxNoHdr
    split
    · exact Accounts.of_same rfl rfl rfl
    · exact (accounts_setCarry [] false s).trans (accounts_parse _ _ _)
  · exact ((accounts_checkFhp fhp s).trans (accounts_closeHead _ _)).trans (accounts_parse _ _ _)

theorem accounts_endOfStream (s : State) : Accounts s (endOfStream s) := by
  have h1 : Accounts s (flushIfActive s) := by
    unfold flushIfActive
    split
    · exact accounts_flushSlot s
    · exact Accounts.of_same rfl rfl rfl
  have h2 : Accounts (flushIfActive s) (discardCarryAtEnd (flushIfActive s)) := by
    unfold discardCarryAtEnd
    split
    · exact accounts_discardCarry _ _
    · exact Accounts.of_same rfl rfl rfl
  exact ((h1.trans h2).trans (accounts_raiseEvent _ _ rfl rfl)).trans (Accounts.of_same rfl rfl rfl)

/-! ### How they leave what is being assembled -/

/-- The part of the invariants that is about CARRY and the slot. -/
structure Assembly (s : State) : Prop where
  carryEmpty : s.activeValid = true → s.carry = []
  carryShort : s.carry.length ≤ 5
  gapOfCarry : s.carry = [] → s.carryGap = false
  store : Memory.wf s
  lenRange : s.activeValid = true → 1 ≤ s.pendLen.toNat ∧ s.pendLen.toNat ≤ Config.pendCap
  notFill : s.activeValid = true → s.pendApid ≠ Config.apidFill
  slotEmpty : s.activeValid = false → SlotEmpty s

/-- Nothing in the slot. -/
structure SlotFree (s : State) : Prop where
  active : s.activeValid = false
  slot : SlotEmpty s
  data : s.pendData = []

/-- The elements of the slot and of CARRY are the same in `s` and `t`. -/
structure SameAssembly (s t : State) : Prop where
  carry : t.carry = s.carry
  carryGap : t.carryGap = s.carryGap
  activeValid : t.activeValid = s.activeValid
  pendVer : t.pendVer = s.pendVer
  pendType : t.pendType = s.pendType
  pendShf : t.pendShf = s.pendShf
  pendApid : t.pendApid = s.pendApid
  pendSf : t.pendSf = s.pendSf
  pendCnt : t.pendCnt = s.pendCnt
  pendLen : t.pendLen = s.pendLen
  pendFd : t.pendFd = s.pendFd
  pendData : t.pendData = s.pendData
  pendRx : t.pendRx = s.pendRx

theorem SlotFree.of_same {s t : State} (h : SameAssembly s t) (f : SlotFree s) : SlotFree t :=
  ⟨h.activeValid.trans f.active,
    ⟨h.pendVer.trans f.slot.ver, h.pendType.trans f.slot.type, h.pendShf.trans f.slot.shf, h.pendApid.trans f.slot.apid,
      h.pendSf.trans f.slot.sf, h.pendCnt.trans f.slot.cnt, h.pendLen.trans f.slot.len, h.pendFd.trans f.slot.fd,
      h.pendRx.trans f.slot.rx⟩, h.pendData.trans f.data⟩

theorem Assembly.of_same {s t : State} (h : SameAssembly s t) (a : Assembly s) : Assembly t := by
  constructor
  · rw [h.activeValid, h.carry]; exact a.carryEmpty
  · rw [h.carry]; exact a.carryShort
  · rw [h.carry, h.carryGap]; exact a.gapOfCarry
  · have := a.store
    simpa only [Memory.wf, storedCount, h.pendData, h.pendRx, h.pendLen] using this
  · rw [h.activeValid, h.pendLen]; exact a.lenRange
  · rw [h.activeValid, h.pendApid]; exact a.notFill
  · rw [h.activeValid]
    intro e
    have := a.slotEmpty e
    exact ⟨h.pendVer.trans this.ver, h.pendType.trans this.type, h.pendShf.trans this.shf, h.pendApid.trans this.apid,
      h.pendSf.trans this.sf, h.pendCnt.trans this.cnt, h.pendLen.trans this.len, h.pendFd.trans this.fd,
      h.pendRx.trans this.rx⟩

theorem sameAssembly_absorb (l : List Record) (s : State) : SameAssembly s (absorb l s) := by constructor <;> rfl

theorem sameAssembly_flush (p : Packet) (s : State) : SameAssembly s (flush p s) := by
  rw [flush_eq_absorb]
  exact sameAssembly_absorb _ _

theorem sameAssembly_raiseEvent (e : Event) (s : State) : SameAssembly s (raiseEvent e s) := by constructor <;> rfl

theorem sameAssembly_flushOpt (p : Option Packet) (s : State) : SameAssembly s (flushOpt p s) := by
  cases p with
  | none => constructor <;> rfl
  | some p => exact sameAssembly_flush p s

theorem SameAssembly.trans {a b c : State} (h : SameAssembly a b) (k : SameAssembly b c) : SameAssembly a c := by
  constructor
  · rw [k.carry, h.carry]
  · rw [k.carryGap, h.carryGap]
  · rw [k.activeValid, h.activeValid]
  · rw [k.pendVer, h.pendVer]
  · rw [k.pendType, h.pendType]
  · rw [k.pendShf, h.pendShf]
  · rw [k.pendApid, h.pendApid]
  · rw [k.pendSf, h.pendSf]
  · rw [k.pendCnt, h.pendCnt]
  · rw [k.pendLen, h.pendLen]
  · rw [k.pendFd, h.pendFd]
  · rw [k.pendData, h.pendData]
  · rw [k.pendRx, h.pendRx]

theorem sameAssembly_segmentAccept (h : PacketHeader) (rest : Bytes) (fd : Bool) (s : State) :
    SameAssembly s (segmentAccept h rest fd s).2 := by
  rcases segmentAccept_cases h rest fd s with ⟨he, -⟩ | ⟨he, -⟩ | ⟨he, -⟩ | ⟨he, -⟩ | ⟨he, -⟩ <;> rw [he] <;>
    constructor <;> rfl

/-- In an assembled state with nothing in flight the slot is free. -/
theorem Assembly.slotFree {s : State} (a : Assembly s) (h : s.activeValid = false) : SlotFree s := by
  have e := a.slotEmpty h
  refine ⟨h, e, List.length_eq_zero_iff.mp ?_⟩
  rw [a.store.1, storedCount, e.rx]
  simp

/-- A free slot and a short CARRY, with no gap flag on an empty one, is an assembled state. -/
theorem SlotFree.assembly {s : State} (f : SlotFree s) (h : s.carry.length ≤ 5) (g : s.carry = [] → s.carryGap = false) :
    Assembly s := by
  have e := f.active
  constructor
  · simp [e]
  · exact h
  · exact g
  · simp [Memory.wf, storedCount, f.data, f.slot.rx]
  · simp [e]
  · simp [e]
  · intro _; exact f.slot

theorem slotFree_setCarry (b : Bytes) (g : Bool) {s : State} (f : SlotFree s) : SlotFree (setCarry b g s) :=
  ⟨f.active, ⟨f.slot.ver, f.slot.type, f.slot.shf, f.slot.apid, f.slot.sf, f.slot.cnt, f.slot.len, f.slot.fd, f.slot.rx⟩,
    f.data⟩

theorem slotFree_releaseSlot (s : State) : SlotFree (releaseSlot s) :=
  ⟨rfl, ⟨rfl, rfl, rfl, rfl, rfl, rfl, rfl, rfl, rfl⟩, rfl⟩

/-- The slot is free after it has been flushed (R167). -/
theorem slotFree_flushSlot (s : State) : SlotFree (flushSlot s) :=
  (slotFree_releaseSlot s).of_same (sameAssembly_flush _ _)

theorem flushSlot_carry (s : State) : (flushSlot s).carry = s.carry ∧ (flushSlot s).carryGap = s.carryGap := by
  have h := sameAssembly_flush (slotPacket s) (releaseSlot s)
  exact ⟨h.carry, h.carryGap⟩

/-- MakeActive on the packet value of an accepted segment. -/
theorem assembly_makeActive (h : PacketHeader) (rest : Bytes) (fd : Bool) (s : State) (hf : h.apid ≠ Config.apidFill) :
    Assembly (setCarry [] false (makeActive (packetOf h rest fd) s)) := by
  have hl := h.lenField.isLt
  have h1 := dataLength_toNat h
  have h2 : (packetOf h rest fd).len.toNat = h.lenField.toNat + 1 := h1
  have hw := makeActive_wf (packetOf h rest fd) s (packetOf_holds h rest fd) (by simp only [Config.pendCap]; omega)
  constructor
  · intro _; rfl
  · simp
  · intro _; rfl
  · exact hw
  · intro _
    show 1 ≤ (packetOf h rest fd).len.toNat ∧ (packetOf h rest fd).len.toNat ≤ Config.pendCap
    simp only [Config.pendCap]
    omega
  · intro _; exact hf
  · intro e; cases e

/-- Parse, called with a free slot, leaves an assembled state. -/
theorem assembly_parse (buf : Bytes) (g : Bool) (s : State) (f : SlotFree s) : Assembly (parse buf g s) := by
  revert f
  refine parse_induction (P := fun _ _ s t => SlotFree s → Assembly t) ?_ ?_ ?_ buf g s
  · intro buf g s hlen f
    refine (slotFree_setCarry _ _ f).assembly (by simp; omega) ?_
    intro e
    simp only [setCarry_carry] at e
    simp [e]
  · intro buf g s _ _ f
    have hs := sameAssembly_segmentAccept (frontHeader buf) (afterHeader buf) g s
    cases hp : (segmentAccept (frontHeader buf) (afterHeader buf) g s).1 with
    | none => exact (slotFree_setCarry _ _ (f.of_same hs)).assembly (by simp) (fun _ => rfl)
    | some p =>
      obtain ⟨rfl, hf⟩ := segmentAccept_some _ _ _ _ _ hp
      exact assembly_makeActive _ _ _ _ hf
  · intro buf g s t _ _ ih f
    exact ih (f.of_same ((sameAssembly_segmentAccept _ _ g s).trans (sameAssembly_flushOpt _ _)))

/-- Whichever case closes the head, the slot is free and CARRY empty after it (R116 to R119, R125). -/
theorem closeHead_free (head : Bytes) (s : State) (a : Assembly s) :
    SlotFree (closeHead head s) ∧ (closeHead head s).carry = [] ∧ (closeHead head s).carryGap = false := by
  unfold closeHead
  split
  · rename_i hc
    have hp := assembly_parse (s.carry ++ head) s.carryGap (setCarry [] false s)
      (slotFree_setCarry _ _ (a.slotFree hc.1))
    unfold resolveCarry
    dsimp only
    split
    · rename_i ha
      have hk := flushSlot_carry (parse (s.carry ++ head) s.carryGap (setCarry [] false s))
      have h0 := hp.carryEmpty ha
      exact ⟨slotFree_flushSlot _, hk.1.trans h0, hk.2.trans (hp.gapOfCarry h0)⟩
    · rename_i ha
      have ha' : (parse (s.carry ++ head) s.carryGap (setCarry [] false s)).activeValid = false := by simpa using ha
      split
      · exact ⟨slotFree_setCarry _ _ ((hp.slotFree ha').of_same (sameAssembly_raiseEvent _ _)), rfl, rfl⟩
      · rename_i h0
        have h0' := List.length_eq_zero_iff.mp (Nat.eq_zero_of_not_pos h0)
        exact ⟨hp.slotFree ha', h0', hp.gapOfCarry h0'⟩
  · rename_i hn
    split
    · rename_i ha
      have hk := flushSlot_carry (appendPend head s)
      have h0 := a.carryEmpty ha
      exact ⟨slotFree_flushSlot _, hk.1.trans h0, hk.2.trans (a.gapOfCarry h0)⟩
    · rename_i ha
      have ha' : s.activeValid = false := by simpa using ha
      have h0 : s.carry = [] := List.length_eq_zero_iff.mp (Nat.eq_zero_of_not_pos fun h => hn ⟨ha', h⟩)
      unfold discardHead
      split
      · exact ⟨(a.slotFree ha').of_same (sameAssembly_raiseEvent _ _), h0, a.gapOfCarry h0⟩
      · exact ⟨a.slotFree ha', h0, a.gapOfCarry h0⟩

theorem sameAssembly_checkFhp (fhp : BitVec 11) (s : State) : SameAssembly s (checkFhp fhp s) := by
  unfold checkFhp
  split <;> constructor <;> rfl

/-- AppendPend keeps an assembled state with a packet in flight. -/
theorem assembly_appendPend (b : Bytes) (s : State) (a : Assembly s) (h : s.activeValid = true) :
    Assembly (appendPend b s) := by
  constructor
  · exact a.carryEmpty
  · exact a.carryShort
  · exact a.gapOfCarry
  · exact appendPend_wf b s a.store (a.lenRange h).2
  · exact a.lenRange
  · exact a.notFill
  · intro e
    have e' : s.activeValid = false := e
    rw [h] at e'
    cases e'

/-- Demux keeps the invariants of CARRY and the slot (R126). -/
theorem assembly_demux (fhp : BitVec 11) (z : Bytes) (s : State) (a : Assembly s) : Assembly (demux fhp z s) := by
  unfold demux
  split
  · unfold demuxNoHdr
    split
    · rename_i ha
      exact assembly_appendPend z s a ha
    · rename_i ha
      exact assembly_parse _ _ _ (slotFree_setCarry _ _ (a.slotFree (by simpa using ha)))
  · exact assembly_parse _ _ _ (closeHead_free _ _ (a.of_same (sameAssembly_checkFhp fhp s))).1

/-- EndOfStream leaves nothing in flight and nothing in CARRY (R106, R215). -/
theorem endOfStream_free (s : State) (a : Assembly s) :
    SlotFree (endOfStream s) ∧ (endOfStream s).carry = [] ∧ (endOfStream s).carryGap = false := by
  have h1 : SlotFree (flushIfActive s) ∧ Assembly (flushIfActive s) := by
    unfold flushIfActive
    split
    · have hk := flushSlot_carry s
      have hf := slotFree_flushSlot s
      refine ⟨hf, hf.assembly ?_ ?_⟩
      · rw [hk.1]; exact a.carryShort
      · rw [hk.1, hk.2]; exact a.gapOfCarry
    · rename_i ha
      exact ⟨a.slotFree (by simpa using ha), a⟩
  have h2 : SlotFree (discardCarryAtEnd (flushIfActive s)) ∧ (discardCarryAtEnd (flushIfActive s)).carry = [] ∧
      (discardCarryAtEnd (flushIfActive s)).carryGap = false := by
    unfold discardCarryAtEnd
    split
    · exact ⟨slotFree_setCarry _ _ (h1.1.of_same (sameAssembly_raiseEvent _ _)), rfl, rfl⟩
    · rename_i h0
      have h0' := List.length_eq_zero_iff.mp (Nat.eq_zero_of_not_pos h0)
      exact ⟨h1.1, h0', h1.2.gapOfCarry h0'⟩
  have h3 : ∀ x : State, SameAssembly x (setEnded (raiseReport x)) := fun x => by constructor <;> rfl
  exact ⟨h2.1.of_same (h3 _), (h3 _).carry.trans h2.2.1, (h3 _).carryGap.trans h2.2.2⟩

/-! ### The instruction of a packet header word -/

theorem frontHeader_append (h : PacketHeader) (rest : Bytes) : frontHeader (headerBytes h ++ rest) = h := by
  rw [frontHeader, slice_zero, List.take_left' (length_headerBytes h)]
  have := parseHeader_headerBytes h []
  rwa [List.append_nil] at this

theorem afterHeader_append (h : PacketHeader) (rest : Bytes) : afterHeader (headerBytes h ++ rest) = rest := by
  rw [afterHeader, slice_to_end, List.drop_left' (length_headerBytes h)]

/-- The stage of a packet header word is Parse on its bytes, after what was in progress is closed. -/
theorem packetStage_eq_parse (h : PacketHeader) (rest : Bytes) (s : State) :
    packetStage h rest s = parse (headerBytes h ++ rest) false (closeHead [] s) := by
  have hf := frontHeader_append h rest
  have ha := afterHeader_append h rest
  have hl : 6 ≤ (headerBytes h ++ rest).length := by rw [List.length_append, length_headerBytes]; omega
  unfold packetStage parsePass
  dsimp only
  by_cases hlt : (dataLength h).toNat < rest.length
  · rw [if_pos hlt, parse_next _ _ _ hl (by rw [hf, ha]; exact hlt), afterPacket, hf, ha]
  · rw [if_neg hlt, parse_stop _ _ _ hl (by rw [hf, ha]; omega), hf, ha]

/-- With nothing in progress, closing an empty head does nothing. -/
theorem closeHead_nil (s : State) (i : Idle s) : closeHead [] s = s := by
  simp [closeHead, discardHead, i.active, i.carry]

/-- Every decoded packet header is executed as its stage, class by class (R85). -/
theorem exec_decodePh (h : PacketHeader) (rest : Bytes) (s : State) :
    exec (decodePh h rest) s = .next (unlessEnded 0x1#4 (packetStage h rest) s) := by
  obtain ⟨ver, type, shf, apid, sf, cnt, len⟩ := h
  unfold decodePh classOf
  dsimp only
  by_cases h0 : apid = Config.apidFill
  · subst h0
    simp [exec, execPhFill]
  · have h4 : sf = 0#2 ∨ sf = 1#2 ∨ sf = 2#2 ∨ sf = 3#2 := by bv_omega
    rcases h4 with rfl | rfl | rfl | rfl <;>
      simp [h0, exec, execPhCont, execPhFirst, execPhLast, execPhStandalone]

/-- In an idle state on an open stream, the rest of a buffer is what Parse makes of it. -/
theorem parseRest_eq_parse (buf : Bytes) (s : State) (i : Idle s) (he : s.ended = false)
    (hl : buf.length ≤ Config.zone s.frameSize + 5) : parseRest buf s = .next (parse buf false s) := by
  unfold parseRest decode decodePacket
  dsimp only
  by_cases h6 : 6 ≤ buf.length
  · rw [if_pos ⟨h6, hl⟩]
    dsimp only
    rw [exec_decodePh, unlessEnded, he, packetStage_eq_parse, closeHead_nil s i]
    match buf, h6 with
    | a :: b :: c :: d :: e :: f :: l, _ =>
      have hh := headerBytes_parseHeader a b c d e f l
      rw [hh]
      rfl
  · rw [if_neg (by omega), parse_short _ _ _ (by omega)]
    simp [setCarry, i.gap]

end Sys2Proof.Machine
end

