-- ==== Sys2Proof/Laws/Delivered.lean ====
section
/-! SUPPORT. The parser and Flush in the terms the statements use: what becomes of a header and its data bytes. -/

namespace Sys2Proof.Machine

/-- Flush of the packet value of a header, of which the data bytes `d` came, is `delivered`. -/
theorem flush_packetOf (h : PacketHeader) (rest d : Bytes) (fd : Bool) (s : State) (hf : h.apid ≠ Config.apidFill)
    (hd : rest.take (h.lenField.toNat + 1) = d) : flush (packetOf h rest fd) s = delivered h d fd s := by
  have hL := dataLength_toNat h
  have hpd := packetOf_data h rest fd
  rw [hL, hd] at hpd
  have hdl : d.length = min (h.lenField.toNat + 1) rest.length := by rw [← hd, List.length_take]
  have hlt := h.lenField.isLt
  have hrx : (packetOf h rest fd).rx = BitVec.ofNat 32 d.length := by
    show BitVec.ofNat 32 (slice rest 0 _).length = _
    rw [slice_zero, hL, hd]
  have hrn : (packetOf h rest fd).rx.toNat = d.length := by
    rw [hrx, BitVec.toNat_ofNat]
    omega
  have hln : (packetOf h rest fd).len.toNat = h.lenField.toNat + 1 := hL
  rw [flush_eq_absorb]
  unfold delivered flushRecords
  rw [if_neg (show ¬ (packetOf h rest fd).apid = Config.apidFill from hf), hrn, hln]
  by_cases hs : d.length < h.lenField.toNat + 1
  · rw [if_pos hs, if_pos hs]
    have he : Record.evt (sizeEvent (packetOf h rest fd) .short) = shortEvent h d fd := by
      simp only [sizeEvent, hrx]
      rfl
    rw [he]
    simp [absorb, savedBy, failedBy, shortEvent]
  · rw [if_neg hs, if_neg hs, if_neg (show ¬ h.lenField.toNat + 1 < d.length by omega)]
    have hde : d.length = h.lenField.toNat + 1 := by omega
    have h17 : dataLength h = BitVec.ofNat 17 d.length := by
      rw [hde]
      rfl
    have hv : verdict (packetOf h rest fd) =
        { payload := d.take (d.length - 2), crcRx := trailerOf d, crcCalc := config.crc16Fn (d.take (d.length - 2))
          noTrailer := decide (d.length < 2)
          ok := decide (2 ≤ d.length ∧ be16 d (d.length - 2) = config.crc16Fn (d.take (d.length - 2))) } := by
      unfold verdict trailerOf
      rw [hln, ← hde, hpd]
      by_cases h2 : 2 ≤ d.length
      · rw [if_pos h2, if_pos h2]
        dsimp only
        rw [slice_zero, slice_zero, List.take_length]
        have hn : ¬ d.length < 2 := by omega
        simp [validateCrc, h2, hn, eq_comm]
      · rw [if_neg h2, if_neg h2]
        have h0 : d.length - 2 = 0 := by omega
        simp [h2, h0]
        omega
    rw [hv]
    have hge : decide (h.lenField.toNat + 1 < d.length) = false := by
      simp only [decide_eq_false_iff_not]
      omega
    by_cases hok : 2 ≤ d.length ∧ be16 d (d.length - 2) = config.crc16Fn (d.take (d.length - 2))
    · rw [if_pos hok]
      simp [hok, absorb, savedBy, failedBy, pktRecord, goodRecord, hge, trailerOf, groupEndOf]
      exact ⟨rfl, rfl, rfl, rfl, rfl, rfl, h17, rfl, rfl⟩
    · rw [if_neg hok]
      cases hk : s.keepCorrupt <;>
        simp [hok, hk, absorb, savedBy, failedBy, pktRecord, goodRecord, corruptRecord, crcFailure, crcEvent, hge,
          groupEndOf]
      · exact ⟨rfl, rfl, rfl⟩
      · exact ⟨⟨rfl, rfl, rfl⟩, rfl, rfl, rfl, rfl, rfl, rfl, h17, rfl, rfl⟩

/-- SegmentAccept of an accepted header. -/
theorem segmentAccept_accepted (h : PacketHeader) (rest : Bytes) (fd : Bool) (s : State) (ha : Accepted s.groupOpen h) :
    segmentAccept h rest fd s = (some (packetOf h rest fd), { s with groupOpen := groupsAfter s.groupOpen h }) := by
  obtain ⟨hf, ho⟩ := ha
  have h4 : h.sf = 0#2 ∨ h.sf = 1#2 ∨ h.sf = 2#2 ∨ h.sf = 3#2 := by bv_omega
  rcases h4 with e | e | e | e <;> simp [e] at ho <;>
    simp [segmentAccept, classOf, hf, e, groupsAfter, setGroup, ho]

/-- SegmentAccept of a fill or an orphan. -/
theorem segmentAccept_rejected (h : PacketHeader) (rest d : Bytes) (fd : Bool) (s : State)
    (ha : ¬ Accepted s.groupOpen h) : segmentAccept h rest fd s = (none, segmentDone h d fd s) := by
  unfold segmentDone
  rw [if_neg ha]
  by_cases hf : h.apid = Config.apidFill
  · simp [segmentAccept, classOf, hf]
  · have ho : (h.sf = 0#2 ∨ h.sf = 2#2) ∧ groupBit s.groupOpen h.apid = false := by simpa [Accepted, hf] using ha
    rcases ho with ⟨e | e, ho⟩ <;> simp [segmentAccept, classOf, hf, e, ho, orphan, raiseEvent, emit, dataLength]

/-- A packet that ends inside the buffer is done, and Parse goes on after it without the gap flag (R129, R140, R141). -/
theorem parse_packetBytes (h : PacketHeader) (d rest : Bytes) (fd : Bool) (s : State)
    (hd : d.length = h.lenField.toNat + 1) (hr : rest ≠ []) :
    parse (packetBytes h d ++ rest) fd s = parse rest false (segmentDone h d fd s) := by
  have hp : 0 < rest.length := List.length_pos_iff.mpr hr
  have e : packetBytes h d ++ rest = headerBytes h ++ (d ++ rest) := by simp [packetBytes]
  have hL := dataLength_toNat h
  rw [e, parse_next _ _ _ (by simp [length_headerBytes])
      (by rw [frontHeader_append, afterHeader_append, hL, List.length_append]; omega),
    afterPacket, frontHeader_append, afterHeader_append, hL, ← hd, slice_to_end, List.drop_left]
  congr 1
  by_cases ha : Accepted s.groupOpen h
  · rw [segmentAccept_accepted _ _ _ _ ha]
    unfold segmentDone
    rw [if_pos ha]
    exact flush_packetOf h (d ++ rest) d fd _ ha.1 (by rw [← hd, List.take_left])
  · rw [segmentAccept_rejected _ _ d _ _ ha]
    rfl

/-- A header whose packet reaches the end of the buffer: in flight if accepted (R142), else done. -/
theorem parse_headerBytes (h : PacketHeader) (d : Bytes) (fd : Bool) (s : State) (hd : d.length ≤ h.lenField.toNat + 1)
    (hc : s.carry = []) (hg : s.carryGap = false) :
    (Accepted s.groupOpen h → parse (headerBytes h ++ d) fd s =
      withInFlight h d fd { s with groupOpen := groupsAfter s.groupOpen h }) ∧
    (¬ Accepted s.groupOpen h → parse (headerBytes h ++ d) fd s = segmentDone h d fd s) := by
  have hL := dataLength_toNat h
  rw [parse_stop _ _ _ (by simp [length_headerBytes]) (by rw [frontHeader_append, afterHeader_append, hL]; exact hd),
    frontHeader_append, afterHeader_append]
  refine ⟨fun ha => ?_, fun ha => ?_⟩
  · rw [segmentAccept_accepted _ _ _ _ ha]
    have hpd := packetOf_data h d fd
    rw [hL, List.take_of_length_le hd] at hpd
    have hrx : (packetOf h d fd).rx = BitVec.ofNat 32 d.length := by
      show BitVec.ofNat 32 (slice d 0 _).length = _
      rw [slice_zero, hL, List.take_of_length_le hd]
    simp only [makeActiveOpt, makeActive, setCarry, withInFlight, hpd, hrx, hc, hg]
    rfl
  · rw [segmentAccept_rejected _ _ d _ _ ha]
    unfold segmentDone
    rw [if_neg ha]
    split <;> (simp only [makeActiveOpt, setCarry]; rw [← hc, ← hg])

/-- What is done of a segment writes only GROUP_OPEN, the counters and OUTQ. -/
theorem segmentDone_same (h : PacketHeader) (d : Bytes) (fd : Bool) (s : State) :
    SameAssembly s (segmentDone h d fd s) ∧ SameReader s (segmentDone h d fd s) := by
  unfold segmentDone delivered
  split <;> (try split) <;> (try split) <;> (try split) <;> constructor <;> constructor <;> rfl

theorem Idle.of_same {s t : State} (e : SameAssembly s t) (i : Idle s) : Idle t :=
  ⟨e.activeValid.trans i.active, e.carry.trans i.carry, e.carryGap.trans i.gap⟩

/-- The packet the parser left in flight, flushed at once, is done (R116). -/
theorem flushSlot_parse_headerBytes (h : PacketHeader) (d : Bytes) (fd : Bool) (s : State) (f : SlotFree s) (i : Idle s)
    (hd : d.length ≤ h.lenField.toNat + 1) (ha : Accepted s.groupOpen h) :
    flushSlot (parse (headerBytes h ++ d) fd s) = segmentDone h d fd s := by
  have hL := dataLength_toNat h
  have hs : slotPacket (setCarry [] false (makeActive (packetOf h d fd) { s with groupOpen := groupsAfter s.groupOpen h })) =
      packetOf h d fd := by
    have hr : memRead (packetOf h d fd).data 0 (min (packetOf h d fd).rx.toNat (packetOf h d fd).len.toNat) =
        (packetOf h d fd).data := by
      unfold memRead
      rw [slice_zero, Nat.zero_add, ← packetOf_holds h d fd, List.take_length]
    show { packetOf h d fd with
        data := memRead (packetOf h d fd).data 0 (min (packetOf h d fd).rx.toNat (packetOf h d fd).len.toNat) } = _
    rw [hr]
  rw [parse_stop _ _ _ (by simp [length_headerBytes]) (by rw [frontHeader_append, afterHeader_append, hL]; exact hd),
    frontHeader_append, afterHeader_append, segmentAccept_accepted _ _ _ _ ha]
  unfold segmentDone flushSlot
  rw [if_pos ha]
  simp only [makeActiveOpt]
  rw [hs, flush_packetOf h d d fd _ ha.1 (List.take_of_length_le hd)]
  congr 1
  obtain ⟨active, ⟨ver, type, shf, apid, sf, cnt, len, sfd, rx⟩, data⟩ := f
  simp only [releaseSlot, setCarry, makeActive, active, ver, type, shf, apid, sf, cnt, len, sfd, rx, data]
  rw [← i.carry, ← i.gap]

/-- What case A1 leaves of its buffer: the parser leaves a packet in flight, which is flushed (R116), or bytes in CARRY,
which are discarded (R117), or neither. -/
theorem CarryResolved.closes {buf : Bytes} {fd : Bool} {s u : State} (r : CarryResolved buf fd s u) (f : SlotFree s)
    (i : Idle s) :
    (if (parse buf fd s).activeValid then flushSlot (parse buf fd s)
      else if (parse buf fd s).carry.length > 0 then discardCarry .residue (parse buf fd s)
      else parse buf fd s) = u ∧ Idle u := by
  induction r with
  | residue last fd s hn hl =>
    refine ⟨?_, i.active, i.carry, i.gap⟩
    have hp := List.length_pos_iff.mpr hn
    rw [parse_short _ _ _ (by omega), if_neg (by simp [f.active]), if_pos (by simpa using hp)]
    simp only [discardCarry, setCarry, raiseEvent, emit, discardEvent]
    rw [← i.carry, ← i.gap]
  | last h d fd s hd =>
    have id := i.of_same (segmentDone_same h d fd s).1
    refine ⟨?_, id⟩
    have hp := parse_headerBytes h d fd s hd i.carry i.gap
    by_cases ha : Accepted s.groupOpen h
    · rw [if_pos (by rw [hp.1 ha]; rfl)]
      exact flushSlot_parse_headerBytes h d fd s f i hd ha
    · rw [hp.2 ha, if_neg (by simp [id.active]), if_neg (by simp [id.carry])]
  | packet h d rest fd s u hd hr _ ih =>
    have e := (segmentDone_same h d fd s).1
    rw [parse_packetBytes _ _ _ _ _ hd hr]
    exact ih (f.of_same e) (i.of_same e)

/-- Every buffer of case A1 leaves something: CARRY holds at least one byte. -/
theorem CarryResolved.exists_of_ne_nil (buf : Bytes) (fd : Bool) (s : State) (h : buf ≠ []) :
    ∃ u, CarryResolved buf fd s u := by
  induction hn : buf.length using Nat.strongRecOn generalizing buf fd s with
  | ind n ih =>
    match buf, h with
    | a :: b :: c :: e :: g :: k :: l, _ =>
      let p := parseHeader (a :: b :: c :: e :: g :: k :: l)
      have hh : headerBytes p ++ l = a :: b :: c :: e :: g :: k :: l := by
        rw [headerBytes_parseHeader a b c e g k l]
        rfl
      by_cases hl : l.length ≤ p.lenField.toNat + 1
      · exact ⟨_, hh ▸ CarryResolved.last p l fd s hl⟩
      · have hd : (l.take (p.lenField.toNat + 1)).length = p.lenField.toNat + 1 := by rw [List.length_take]; omega
        have hr : l.drop (p.lenField.toNat + 1) ≠ [] := by
          intro h0
          have := congrArg List.length h0
          rw [List.length_drop] at this
          simp at this
          omega
        obtain ⟨u, hu⟩ := ih (l.drop (p.lenField.toNat + 1)).length (by rw [List.length_drop, ← hn]; simp; omega) _ false
          (segmentDone p (l.take (p.lenField.toNat + 1)) fd s) hr rfl
        refine ⟨u, ?_⟩
        have := CarryResolved.packet p _ _ fd s u hd hr hu
        rwa [packetBytes, List.append_assoc, List.take_append_drop, hh] at this
    | [a], _ => exact ⟨_, .residue _ fd s (by simp) (by simp)⟩
    | [a, b], _ => exact ⟨_, .residue _ fd s (by simp) (by simp)⟩
    | [a, b, c], _ => exact ⟨_, .residue _ fd s (by simp) (by simp)⟩
    | [a, b, c, e], _ => exact ⟨_, .residue _ fd s (by simp) (by simp)⟩
    | [a, b, c, e, g], _ => exact ⟨_, .residue _ fd s (by simp) (by simp)⟩

end Sys2Proof.Machine
end

