-- ==== Sys2Proof/Laws/PerInstr.lean ====
section
/-! SUPPORT. Every instruction's encoding has the format and the fixed bits of its row in opcode_table.json: one lemma
per constructor. -/

namespace Sys2Proof.Laws.EncodesRow

/-- The four word formats of the table (30_encoding.md). -/
inductive Format where
  | command | frameHeader | mpdu | packetHeader
deriving DecidableEq, Repr

/-- One row of the table: its format, its mask and its match value. -/
structure Row where
  format : Format
  mask : BitVec 48
  value : BitVec 48
deriving DecidableEq, Repr

/-- The row of an instruction, with the table's own numbers. -/
def rowOf : Instr → Row
  | .frame _ _ _ => ⟨.command, 0xF#48, 0x1#48⟩
  | .tail _ _ => ⟨.command, 0xF#48, 0x2#48⟩
  | .eos _ _ => ⟨.command, 0xF#48, 0x3#48⟩
  | .cfg _ _ _ => ⟨.command, 0xF#48, 0x4#48⟩
  | .read _ _ _ => ⟨.command, 0xF#48, 0x5#48⟩
  | .reset _ _ => ⟨.command, 0xF#48, 0xF#48⟩
  | .illegal0 _ _ => ⟨.command, 0xF#48, 0x0#48⟩
  | .illegal6 _ _ => ⟨.command, 0xF#48, 0x6#48⟩
  | .illegal7 _ _ => ⟨.command, 0xF#48, 0x7#48⟩
  | .illegal8 _ _ => ⟨.command, 0xF#48, 0x8#48⟩
  | .illegal9 _ _ => ⟨.command, 0xF#48, 0x9#48⟩
  | .illegalA _ _ => ⟨.command, 0xF#48, 0xA#48⟩
  | .illegalB _ _ => ⟨.command, 0xF#48, 0xB#48⟩
  | .illegalC _ _ => ⟨.command, 0xF#48, 0xC#48⟩
  | .illegalD _ _ => ⟨.command, 0xF#48, 0xD#48⟩
  | .illegalE _ _ => ⟨.command, 0xF#48, 0xE#48⟩
  | .frameHeader _ _ _ _ _ _ => ⟨.frameHeader, 0x0#48, 0x0#48⟩
  | .mpduNohdr _ _ => ⟨.mpdu, 0x7FF#48, 0x7FF#48⟩
  | .mpduPtr _ _ _ => ⟨.mpdu, 0x0#48, 0x0#48⟩
  | .phFill _ _ _ _ _ _ _ => ⟨.packetHeader, 0x7FF00000000#48, 0x7FF00000000#48⟩
  | .phCont _ _ _ _ _ _ _ => ⟨.packetHeader, 0xC0000000#48, 0x0#48⟩
  | .phFirst _ _ _ _ _ _ _ => ⟨.packetHeader, 0xC0000000#48, 0x40000000#48⟩
  | .phLast _ _ _ _ _ _ _ => ⟨.packetHeader, 0xC0000000#48, 0x80000000#48⟩
  | .phStandalone _ _ _ _ _ _ _ => ⟨.packetHeader, 0xC0000000#48, 0xC0000000#48⟩

/-- The format of an encoding's word. -/
def formatOf : Encoded → Format
  | .command _ _ => .command
  | .tfh _ => .frameHeader
  | .mpdu _ => .mpdu
  | .packet _ => .packetHeader

/-- The word of an encoding, as a 48-bit number: be48 of a header, be16 of an M-PDU word (R52). -/
def wordOf : Encoded → BitVec 48
  | .command w _ => w.setWidth 48
  | .tfh b => be24 b 0 ++ be24 b 3
  | .mpdu b => (be16 b 0).setWidth 48
  | .packet b => be24 b 0 ++ be24 b 3

/-- The encoding of the instruction is a word of its row's format, with its row's fixed bits. -/
def Statement (i : Instr) : Prop :=
  formatOf (encode i) = (rowOf i).format ∧ wordOf (encode i) &&& (rowOf i).mask = (rowOf i).value

/-- The four low bits of a command word are its OP (R67). -/
theorem commandWord_op (op rsv : BitVec 4) (arg : BitVec 24) :
    (commandWord op rsv arg).setWidth 48 &&& 0xF#48 = op.setWidth 48 := by
  apply BitVec.eq_of_getLsbD_eq
  intro k hk
  simp only [commandWord, BitVec.getLsbD_and, BitVec.getLsbD_setWidth, BitVec.getLsbD_append, hk, decide_true,
    Bool.true_and]
  interval_cases k <;> simp

/-- Bits 31:30 of a packet header word are SF (R80). -/
theorem header_sf (h : PacketHeader) (rest : Bytes) :
    wordOf (.packet (headerBytes h ++ rest)) &&& 0xC0000000#48 = h.sf.setWidth 48 <<< 30 := by
  apply BitVec.eq_of_getLsbD_eq
  intro k hk
  simp only [wordOf, headerBytes, bytes16, be24, byteAt, List.cons_append, List.nil_append, List.getD_cons_zero,
    List.getD_cons_succ, BitVec.getLsbD_and, BitVec.getLsbD_setWidth, BitVec.getLsbD_append, BitVec.getLsbD_shiftLeft,
    hk, decide_true, Bool.true_and]
  interval_cases k <;> simp

/-- Bits 42:32 of a packet header word are APID (R80). -/
theorem header_apid (h : PacketHeader) (rest : Bytes) :
    wordOf (.packet (headerBytes h ++ rest)) &&& 0x7FF00000000#48 = h.apid.setWidth 48 <<< 32 := by
  apply BitVec.eq_of_getLsbD_eq
  intro k hk
  simp only [wordOf, headerBytes, bytes16, be24, byteAt, List.cons_append, List.nil_append, List.getD_cons_zero,
    List.getD_cons_succ, BitVec.getLsbD_and, BitVec.getLsbD_setWidth, BitVec.getLsbD_append, BitVec.getLsbD_shiftLeft,
    BitVec.getLsbD_extractLsb', hk, decide_true, Bool.true_and]
  interval_cases k <;> simp

/-- Bits 10:0 of an M-PDU word are FHP (R77). -/
theorem mpdu_fhp (spare : BitVec 5) (fhp : BitVec 11) (zone : Bytes) :
    wordOf (.mpdu (bytes16 (spare ++ fhp) ++ zone)) &&& 0x7FF#48 = fhp.setWidth 48 := by
  apply BitVec.eq_of_getLsbD_eq
  intro k hk
  simp only [wordOf, bytes16, be16, byteAt, List.cons_append, List.nil_append, List.getD_cons_zero,
    List.getD_cons_succ, BitVec.getLsbD_and, BitVec.getLsbD_setWidth, BitVec.getLsbD_append,
    BitVec.getLsbD_extractLsb', hk, decide_true, Bool.true_and]
  interval_cases k <;> simp

theorem frame (rsv : BitVec 4) (arg : BitVec 24) (f : Bytes) :
    Statement (.frame rsv arg f) :=
  ⟨rfl, commandWord_op _ _ _⟩

theorem tail (rsv : BitVec 4) (n : BitVec 24) :
    Statement (.tail rsv n) :=
  ⟨rfl, commandWord_op _ _ _⟩

theorem eos (rsv : BitVec 4) (arg : BitVec 24) :
    Statement (.eos rsv arg) :=
  ⟨rfl, commandWord_op _ _ _⟩

theorem cfg (rsv : BitVec 4) (keep : BitVec 1) (ign : BitVec 23) :
    Statement (.cfg rsv keep ign) :=
  ⟨rfl, commandWord_op _ _ _⟩

theorem read (rsv : BitVec 4) (index : BitVec 8) (ign : BitVec 16) :
    Statement (.read rsv index ign) :=
  ⟨rfl, commandWord_op _ _ _⟩

theorem reset (rsv : BitVec 4) (arg : BitVec 24) :
    Statement (.reset rsv arg) :=
  ⟨rfl, commandWord_op _ _ _⟩

theorem illegal0 (rsv : BitVec 4) (arg : BitVec 24) :
    Statement (.illegal0 rsv arg) :=
  ⟨rfl, commandWord_op _ _ _⟩

theorem illegal6 (rsv : BitVec 4) (arg : BitVec 24) :
    Statement (.illegal6 rsv arg) :=
  ⟨rfl, commandWord_op _ _ _⟩

theorem illegal7 (rsv : BitVec 4) (arg : BitVec 24) :
    Statement (.illegal7 rsv arg) :=
  ⟨rfl, commandWord_op _ _ _⟩

theorem illegal8 (rsv : BitVec 4) (arg : BitVec 24) :
    Statement (.illegal8 rsv arg) :=
  ⟨rfl, commandWord_op _ _ _⟩

theorem illegal9 (rsv : BitVec 4) (arg : BitVec 24) :
    Statement (.illegal9 rsv arg) :=
  ⟨rfl, commandWord_op _ _ _⟩

theorem illegalA (rsv : BitVec 4) (arg : BitVec 24) :
    Statement (.illegalA rsv arg) :=
  ⟨rfl, commandWord_op _ _ _⟩

theorem illegalB (rsv : BitVec 4) (arg : BitVec 24) :
    Statement (.illegalB rsv arg) :=
  ⟨rfl, commandWord_op _ _ _⟩

theorem illegalC (rsv : BitVec 4) (arg : BitVec 24) :
    Statement (.illegalC rsv arg) :=
  ⟨rfl, commandWord_op _ _ _⟩

theorem illegalD (rsv : BitVec 4) (arg : BitVec 24) :
    Statement (.illegalD rsv arg) :=
  ⟨rfl, commandWord_op _ _ _⟩

theorem illegalE (rsv : BitVec 4) (arg : BitVec 24) :
    Statement (.illegalE rsv arg) :=
  ⟨rfl, commandWord_op _ _ _⟩

theorem frameHeader (version : BitVec 2) (scid : BitVec 6) (unused1 : BitVec 2) (vcid : BitVec 6) (ctr : BitVec 24)
    (unused5 : BitVec 8) :
    Statement (.frameHeader version scid unused1 vcid ctr unused5) :=
  ⟨rfl, BitVec.and_zero⟩

theorem mpduNohdr (spare : BitVec 5) (zone : Bytes) :
    Statement (.mpduNohdr spare zone) :=
  ⟨rfl, mpdu_fhp spare Config.fhpNohdr zone⟩

theorem mpduPtr (spare : BitVec 5) (fhp : BitVec 11) (zone : Bytes) :
    Statement (.mpduPtr spare fhp zone) :=
  ⟨rfl, BitVec.and_zero⟩

theorem phFill (ver : BitVec 3) (type shf : BitVec 1) (sf : BitVec 2) (cnt : BitVec 14) (lenField : BitVec 16)
    (rest : Bytes) :
    Statement (.phFill ver type shf sf cnt lenField rest) := by
  refine ⟨rfl, ?_⟩
  rw [encode, rowOf, header_apid]
  simp

theorem phCont (ver : BitVec 3) (type shf : BitVec 1) (apid : BitVec 11) (cnt : BitVec 14) (lenField : BitVec 16)
    (rest : Bytes) :
    Statement (.phCont ver type shf apid cnt lenField rest) := by
  refine ⟨rfl, ?_⟩
  rw [encode, rowOf, header_sf]
  simp

theorem phFirst (ver : BitVec 3) (type shf : BitVec 1) (apid : BitVec 11) (cnt : BitVec 14) (lenField : BitVec 16)
    (rest : Bytes) :
    Statement (.phFirst ver type shf apid cnt lenField rest) := by
  refine ⟨rfl, ?_⟩
  rw [encode, rowOf, header_sf]
  simp

theorem phLast (ver : BitVec 3) (type shf : BitVec 1) (apid : BitVec 11) (cnt : BitVec 14) (lenField : BitVec 16)
    (rest : Bytes) :
    Statement (.phLast ver type shf apid cnt lenField rest) := by
  refine ⟨rfl, ?_⟩
  rw [encode, rowOf, header_sf]
  simp

theorem phStandalone (ver : BitVec 3) (type shf : BitVec 1) (apid : BitVec 11) (cnt : BitVec 14) (lenField : BitVec 16)
    (rest : Bytes) :
    Statement (.phStandalone ver type shf apid cnt lenField rest) := by
  refine ⟨rfl, ?_⟩
  rw [encode, rowOf, header_sf]
  simp

end Sys2Proof.Laws.EncodesRow
end

