-- ==== Sys2Proof/Laws/Step.lean ====
section
/-! SUPPORT. What a step can do, said once. -/

namespace Sys2Proof

@[simp] theorem encoded_word_operand (w : Word) (f : Bytes) : (Command.mk w f).encoded = .command w f := rfl

@[simp] theorem carrier_encoded (n : Nat) (c : Command) : carrier n c.encoded = c := rfl

theorem length_frameCommand_operand (n : Nat) (f : Bytes) : (frameCommand n f).operand.length = n := by
  simp [frameCommand]

end Sys2Proof

namespace Sys2Proof.Machine

@[simp] theorem step_idle {s : State} (h : s.port = []) : step s = .next s := by
  simp [step, h]

/-- A step that answers a next state was idle, or executed the command at the head of the port. -/
theorem step_next_cases {s t : State} (h : step s = .next t) :
    (s.port = [] ∧ t = s) ∨
    ∃ c later i, s.port = c :: later ∧ decode s.frameSize c.encoded = .ok i ∧ exec i { s with port := later } = .next t := by
  cases hp : s.port with
  | nil =>
    rw [step_idle hp] at h
    cases h
    exact .inl ⟨rfl, rfl⟩
  | cons c later =>
    simp only [step, hp] at h
    split at h
    · cases h
    · rename_i i hd
      exact .inr ⟨c, later, i, rfl, hd, h⟩

end Sys2Proof.Machine
end

