-- ==== Sys2Proof/Tests/Slice0.lean ====
section
/-! SUPPORT. Tests: the checks of WellFormed, the decoding of words written out from 30_encoding.md, one or two small
steps per instruction with the results the vectors of 95_test_vectors.md state (FRAME_SIZE = 32), and for each
obligation with hypotheses a witness that meets them. -/

namespace Sys2Proof.Tests

open Sys2Proof.Machine

/-- Bytes from numbers. -/
def hx (l : List Nat) : Bytes := l.map (BitVec.ofNat 8)

/-- The power-on state of the vectors. -/
def base : State := State.powerOn 32

/-- The records of a next state. -/
def recordsOf : Host.Outcome State Fault Refusal → List Record
  | .next s => s.outq
  | .fault _ => []
  | .refused _ => []

/-- What READ answers after a next state. -/
def readsOf (i : Nat) : Host.Outcome State Fault Refusal → Option Word
  | .next s => some (regView s (BitVec.ofNat 8 i))
  | .fault _ => none
  | .refused _ => none

/-- A frame of the vectors: header `6A 05`, counter bytes, `00`, the M-PDU word, the zone. -/
def frameOf (ctr mpdu zone : List Nat) : Bytes := hx ([0x6A, 0x05] ++ ctr ++ [0x00] ++ mpdu ++ zone)

/-- FILL(6) with its header (R92). -/
def fill6 : List Nat := [0x07, 0xFF, 0xC0, 0x00, 0x00, 0x05, 0x55, 0x55, 0x55, 0x55, 0x55, 0x55]

/-- PKT(0x010, 3, 0, 01020304), V-SNK-1. -/
def pkt10 : List Nat := [0x00, 0x10, 0xC0, 0x00, 0x00, 0x05, 0x01, 0x02, 0x03, 0x04, 0x89, 0xC3]

/-- The data field of pkt10: a trailer with the right CRC. -/
def field10 : Bytes := hx [0x01, 0x02, 0x03, 0x04, 0x89, 0xC3]

/-- Its header, with a chosen APID, sequence flag and length field. -/
def header (apid : BitVec 11) (sf : BitVec 2) (lenField : BitVec 16) : PacketHeader := ⟨0#3, 0#1, 0#1, apid, sf, 0#14, lenField⟩

/-- A state with a packet of APID 0x010 in flight. -/
def flying (lenField : BitVec 16) (d : Bytes) : State := withInFlight (header 0x010#11 3#2 lenField) d false base

/-! ### WellFormed refuses what it should -/

theorem test_wf_frame_short : ¬ Instr.WellFormed 9 (.frame 0#4 0#24 (hx [1])) := by simp [Instr.WellFormed, hx]
theorem test_wf_nohdr_zone : ¬ Instr.WellFormed 9 (.mpduNohdr 0#5 []) := by simp [Instr.WellFormed]
theorem test_wf_ptr_zone : ¬ Instr.WellFormed 9 (.mpduPtr 0#5 0#11 []) := by simp [Instr.WellFormed]
theorem test_wf_ptr_sentinel : ¬ Instr.WellFormed 9 (.mpduPtr 0#5 2047#11 (hx [1])) := by simp [Instr.WellFormed]
theorem test_wf_fill_rest : ¬ Instr.WellFormed 9 (.phFill 0#3 0#1 0#1 0#2 0#14 0#16 (hx [1])) := by
  simp [Instr.WellFormed, RestFits, hx]
theorem test_wf_cont_apid : ¬ Instr.WellFormed 9 (.phCont 0#3 0#1 0#1 2047#11 0#14 0#16 []) := by simp [Instr.WellFormed]
theorem test_wf_first_apid : ¬ Instr.WellFormed 9 (.phFirst 0#3 0#1 0#1 2047#11 0#14 0#16 []) := by simp [Instr.WellFormed]
theorem test_wf_last_apid : ¬ Instr.WellFormed 9 (.phLast 0#3 0#1 0#1 2047#11 0#14 0#16 []) := by simp [Instr.WellFormed]
theorem test_wf_standalone_apid : ¬ Instr.WellFormed 9 (.phStandalone 0#3 0#1 0#1 2047#11 0#14 0#16 []) := by
  simp [Instr.WellFormed]
theorem test_wf_last_rest : ¬ Instr.WellFormed 9 (.phLast 0#3 0#1 0#1 1#11 0#14 0#16 (hx [1])) := by
  simp [Instr.WellFormed, RestFits, hx]

/-! ### Decoding, one word per constructor, written from the tables of 30_encoding.md -/

theorem test_decode_frame :
    decode 9 (.command 0xABCDEF51#32 (hx [1, 2, 3, 4, 5, 6, 7, 8, 9])) =
      .ok (.frame 0x5#4 0xABCDEF#24 (hx [1, 2, 3, 4, 5, 6, 7, 8, 9])) := by decide
theorem test_decode_tail : decode 32 (.command 0x00001402#32 []) = .ok (.tail 0#4 20#24) := by decide
theorem test_decode_eos : decode 32 (.command 0x123456F3#32 []) = .ok (.eos 0xF#4 0x123456#24) := by decide
theorem test_decode_cfg : decode 32 (.command 0xFFFFFE04#32 []) = .ok (.cfg 0#4 0#1 0x7FFFFF#23) := by decide
theorem test_decode_read : decode 32 (.command 0x12345605#32 []) = .ok (.read 0#4 0x56#8 0x1234#16) := by decide
theorem test_decode_reset : decode 32 (.command 0x0000002F#32 []) = .ok (.reset 0x2#4 0#24) := by decide
theorem test_decode_illegal0 : decode 32 (.command 0x00000100#32 []) = .ok (.illegal0 0#4 1#24) := by decide
theorem test_decode_illegal6 : decode 32 (.command 0x000000F6#32 []) = .ok (.illegal6 0xF#4 0#24) := by decide
theorem test_decode_illegal7 : decode 32 (.command 0x00000107#32 []) = .ok (.illegal7 0#4 1#24) := by decide
theorem test_decode_illegal8 : decode 32 (.command 0x00000108#32 []) = .ok (.illegal8 0#4 1#24) := by decide
theorem test_decode_illegal9 : decode 32 (.command 0x00000109#32 []) = .ok (.illegal9 0#4 1#24) := by decide
theorem test_decode_illegalA : decode 32 (.command 0x0000010A#32 []) = .ok (.illegalA 0#4 1#24) := by decide
theorem test_decode_illegalB : decode 32 (.command 0x0000010B#32 []) = .ok (.illegalB 0#4 1#24) := by decide
theorem test_decode_illegalC : decode 32 (.command 0x0000010C#32 []) = .ok (.illegalC 0#4 1#24) := by decide
theorem test_decode_illegalD : decode 32 (.command 0x0000010D#32 []) = .ok (.illegalD 0#4 1#24) := by decide
theorem test_decode_illegalE : decode 32 (.command 0x0000010E#32 []) = .ok (.illegalE 0#4 1#24) := by decide
/-- V-HDR-3 with nonzero unread bits. -/
theorem test_decode_frameHeader :
    decode 32 (.tfh (hx [0x00, 0xC5, 0x00, 0x00, 0x00, 0x7E])) = .ok (.frameHeader 0#2 0#6 3#2 5#6 0#24 0x7E#8) := by decide
/-- V-FHP-3. -/
theorem test_decode_mpduNohdr : decode 9 (.mpdu (hx [0xFF, 0xFF, 0x01])) = .ok (.mpduNohdr 31#5 (hx [1])) := by decide
/-- V-FHP-4. -/
theorem test_decode_mpduPtr : decode 9 (.mpdu (hx [0xF8, 0x00, 0x01])) = .ok (.mpduPtr 31#5 0#11 (hx [1])) := by decide
/-- V-HDR-8: APID 2047 is FILL, not CONT. -/
theorem test_decode_phFill :
    decode 32 (.packet (hx [0x07, 0xFF, 0x00, 0x00, 0x00, 0x00])) = .ok (.phFill 0#3 0#1 0#1 0#2 0#14 0#16 []) := by decide
theorem test_decode_phCont :
    decode 32 (.packet (hx [0x08, 0x50, 0x00, 0x09, 0x00, 0x03, 0xAA])) =
      .ok (.phCont 0#3 0#1 1#1 0x050#11 9#14 3#16 (hx [0xAA])) := by decide
/-- V-HDR-6. -/
theorem test_decode_phFirst :
    decode 32 (.packet (hx [0x1F, 0xFE, 0x7F, 0xFF, 0x00, 0x00])) =
      .ok (.phFirst 0#3 1#1 1#1 0x7FE#11 0x3FFF#14 0#16 []) := by decide
/-- V-HDR-7. -/
theorem test_decode_phLast :
    decode 32 (.packet (hx [0xE0, 0x00, 0x80, 0x01, 0x12, 0x34])) =
      .ok (.phLast 7#3 0#1 0#1 0x000#11 1#14 0x1234#16 []) := by decide
/-- V-HDR-9. -/
theorem test_decode_phStandalone :
    decode 32 (.packet (hx [0xF8, 0x39, 0xFF, 0xFF, 0x00, 0x02])) =
      .ok (.phStandalone 7#3 1#1 1#1 0x039#11 0x3FFF#14 2#16 []) := by decide
/-- A wrong number of bytes is refused (R111, R176). -/
theorem test_decode_refuses :
    decode 32 (.command 0x00000001#32 (hx [0])) = .error .frameOperandLength ∧
    decode 32 (.command 0x00000006#32 (hx [0])) = .error .unexpectedOperand ∧
    decode 32 (.packet (hx [0, 0, 0, 0, 0])) = .error .wireLength := by decide

/-! ### Words of opcode_table.json -/

theorem test_table_commands :
    decodeTableWord 8 0x02 = some (.tail 0#4 0#24) ∧ decodeTableWord 8 0x0F = some (.reset 0#4 0#24) ∧
    decodeTableWord 8 0x00 = some (.illegal0 0#4 0#24) ∧ decodeTableWord 32 0x00000505 = some (.read 0#4 5#8 0#16) := by
  decide
theorem test_table_headers :
    decodeTableWord 48 0x07FF00000000 = some (.phFill 0#3 0#1 0#1 0#2 0#14 0#16 []) ∧
    decodeTableWord 32 0x40000000 = some (.phFirst 0#3 0#1 0#1 0#11 0#14 0#16 []) ∧
    decodeTableWord 0 0 = some (.frameHeader 0#2 0#6 0#2 0#6 0#24 0#8) := by decide

/-! ### Steps -/

/-- P1: one Standalone packet and filler. -/
theorem test_frame_releases :
    recordsOf (exec (.frame 0#4 0#24 (frameOf [0, 0, 0] [0, 0] (pkt10 ++ fill6))) base) =
      [.pkt {
        apid := 0x010#11, ver := 0#3, type := 0#1, shf := 0#1, sf := 3#2, cnt := 0#14, len := 6#17
        payload := hx [1, 2, 3, 4], crcRx := 0x89C3#16, crcCalc := 0x89C3#16, crcOk := true, framesDropped := false
        sizeLong := false, groupEnd := true }] := by decide
/-- V-CTR-3: counters 5, 9. -/
theorem test_frame_gap :
    recordsOf (exec (.frame 0#4 0#24 (frameOf [0, 0, 9] [0, 0] (fill6 ++ fill6)))
      { base with haveLast := true, lastCtr := 5#24 }) = [.evt (.frameSequenceGap 3#24 5#24 9#24)] := by decide
/-- TAIL 20: the notice, then the report (R104). -/
theorem test_tail :
    recordsOf (exec (.tail 0#4 20#24) base) = [.evt (.truncatedTail 20#24), .evt (.report 0#32 0#32 0#32)] := by
  decide
/-- TAIL 100 with FRAME_SIZE = 32 is illegal (R104). -/
theorem test_tail_illegal :
    recordsOf (exec (.tail 0#4 100#24) base) = [.evt (.illegalCmd 0x00006402#32)] := by decide
/-- V-CMD-4. -/
theorem test_eos : recordsOf (exec (.eos 0xF#4 0#24) base) = [.evt (.report 0#32 0#32 0#32)] := by decide
/-- V-CMD-1. -/
theorem test_cfg : readsOf 0x00 (exec (.cfg 0#4 1#1 0#23) base) = some 0x00000001#32 := by decide
/-- Two carried bytes `00 23` (R35). -/
theorem test_read :
    recordsOf (exec (.read 0#4 0x0C#8 0#16) { base with carry := hx [0x00, 0x23] }) = [.rdata 0x00230000#32] := by
  decide
/-- V-CMD-7: a packet in flight is discarded silently. -/
theorem test_reset :
    recordsOf (exec (.reset 0#4 0#24) (flying 9#16 [])) = [] ∧
    readsOf 0x01 (exec (.reset 0#4 0#24) (flying 9#16 [])) = some 0#32 := by decide
theorem test_illegal0 : recordsOf (exec (.illegal0 0#4 1#24) base) = [.evt (.illegalCmd 0x00000100#32)] := by decide
theorem test_illegal6 : recordsOf (exec (.illegal6 0xF#4 0#24) base) = [.evt (.illegalCmd 0x000000F6#32)] := by decide
theorem test_illegal7 : recordsOf (exec (.illegal7 0#4 1#24) base) = [.evt (.illegalCmd 0x00000107#32)] := by decide
theorem test_illegal8 : recordsOf (exec (.illegal8 0#4 1#24) base) = [.evt (.illegalCmd 0x00000108#32)] := by decide
theorem test_illegal9 : recordsOf (exec (.illegal9 0#4 1#24) base) = [.evt (.illegalCmd 0x00000109#32)] := by decide
theorem test_illegalA : recordsOf (exec (.illegalA 0#4 1#24) base) = [.evt (.illegalCmd 0x0000010A#32)] := by decide
theorem test_illegalB : recordsOf (exec (.illegalB 0#4 1#24) base) = [.evt (.illegalCmd 0x0000010B#32)] := by decide
theorem test_illegalC : recordsOf (exec (.illegalC 0#4 1#24) base) = [.evt (.illegalCmd 0x0000010C#32)] := by decide
theorem test_illegalD : recordsOf (exec (.illegalD 0#4 1#24) base) = [.evt (.illegalCmd 0x0000010D#32)] := by decide
theorem test_illegalE : recordsOf (exec (.illegalE 0#4 1#24) base) = [.evt (.illegalCmd 0x0000010E#32)] := by decide
/-- V-CTR-7. -/
theorem test_frameHeader :
    recordsOf (exec (.frameHeader 1#2 0x2A#6 0#2 5#6 1#24 0#8) { base with haveLast := true, lastCtr := 0xFFFFFE#24 }) =
      [.evt (.counterAnomaly 0xFFFFFE#24 1#24 3#24)] := by decide
/-- V-DMX-6: ACTIVE_LEN and ACTIVE_RX after a zone of 24 bytes 0x55 with no context. -/
theorem test_mpduNohdr :
    readsOf 0x0A (exec (.mpduNohdr 0#5 (List.replicate 24 0x55#8)) base) = some 21846#32 ∧
    readsOf 0x0B (exec (.mpduNohdr 0#5 (List.replicate 24 0x55#8)) base) = some 18#32 := by decide
/-- V-FHP-5. -/
theorem test_mpduPtr :
    recordsOf (exec (.mpduPtr 0#5 24#11 (List.replicate 24 0x01#8)) base) =
      [.evt (.fhpOutOfRange 24#11), .evt (.bytesDiscarded 24#16 .unowned)] := by decide
theorem test_phFill : exec (.phFill 0#3 0#1 0#1 3#2 0#14 5#16 (hx [0x55])) base = .next base := rfl
/-- Program P3: a CONT of APID 0x050 with no open group. -/
theorem test_phCont :
    recordsOf (exec (.phCont 0#3 0#1 0#1 0x050#11 9#14 3#16 (hx [1, 2, 3, 4])) base) =
      [.evt (.orphanSegment 0x050#11 0#2 9#14 4#17)] := by decide +kernel
/-- A FIRST opens its group: GROUP_OPEN_W2 bit 16 is APID 0x050 (R36). -/
theorem test_phFirst :
    readsOf 0x42 (exec (.phFirst 0#3 0#1 0#1 0x050#11 9#14 3#16 (hx [1, 2, 3, 4])) base) = some 0x00010000#32 := by
  decide +kernel
/-- A LAST closes its group. -/
theorem test_phLast :
    readsOf 0x42 (exec (.phLast 0#3 0#1 0#1 0x050#11 9#14 3#16 []) (setGroup 0x050#11 true base)) = some 0#32 := by
  decide +kernel
/-- A complete packet followed by the first bytes of a header: released, and the rest carried. -/
theorem test_phStandalone :
    recordsOf (exec (.phStandalone 0#3 0#1 0#1 0x010#11 0#14 5#16 (field10 ++ hx [0x00, 0x23])) base) =
      [.pkt (goodRecord (header 0x010#11 3#2 5#16) field10 false)] ∧
    readsOf 0x0C (exec (.phStandalone 0#3 0#1 0#1 0x010#11 0#14 5#16 (field10 ++ hx [0x00, 0x23])) base) =
      some 0x00230000#32 := by decide
/-- V-SNK-5: a wrong CRC under KEEP_CORRUPT; V-SNK-6: no room for a trailer. -/
theorem test_corrupt_packets :
    let bad : Bytes := hx [0x10, 0x20, 0x3A, 0x1F]
    recordsOf (exec (.phStandalone 0#3 0#1 0#1 0x041#11 0#14 3#16 (bad ++ hx [0x07])) { base with keepCorrupt := true }) =
      [.evt (.crcMismatch 0x041#11 3#2 0#14 0x3A1F#16 0x3A1E#16 true false),
        .pkt ⟨0x041#11, 0#3, 0#1, 0#1, 3#2, 0#14, 4#17, hx [0x10, 0x20], 0x3A1F#16, 0x3A1E#16, false, false, false, true⟩] ∧
    recordsOf (exec (.phStandalone 0#3 0#1 0#1 0x042#11 0#14 0#16 (hx [0x99, 0x07])) base) =
      [.evt (.crcMismatch 0x042#11 3#2 0#14 0#16 0xFFFF#16 false true)] := by decide

/-- A step takes the presented transfer: CFG from a word of the table. -/
theorem test_step_fetches : step (State.reset.withFetchWord 32 0x00000104) = .next { State.reset with keepCorrupt := true } := by
  rfl

/-- A wire word of the table runs inside a whole FRAME: the LAST with APID 0 is met as the first packet of the zone, where
it is an orphan (R111, R138). -/
theorem test_step_meets_the_packet_word :
    (recordsOf (step (base.withFetchWord 32 0x80000000))).head? = some (.evt (.orphanSegment 0#11 2#2 0#14 1#17)) := by
  decide +kernel

/-! ### Witnesses: states and operands that meet the hypotheses of the obligations

Several hypotheses are plain facts about `base` (FRAME_SIZE = 32, open stream, nothing in progress) and about `flying`;
the invariants of those states are stated first. -/

theorem inv_base : StateInv base := by
  refine ⟨by decide, by decide, by decide, by decide, by decide, by decide, by decide, ?_, by decide⟩
  intro _
  exact ⟨rfl, rfl, rfl, rfl, rfl, rfl, rfl, rfl, rfl⟩

theorem idle_base : Idle base := ⟨rfl, rfl, rfl⟩

/-- The power-on state with the stream ended. -/
def ended : State := { base with ended := true }

/-- The power-on state with five carried bytes. -/
def carrying : State := { base with carry := hx [0x00, 0x10, 0xC0, 0x00, 0x00] }

theorem inv_carrying : StateInv carrying := by
  refine ⟨by decide, by decide, by decide, by decide, by decide, by decide, by decide, ?_, by decide⟩
  intro _
  exact ⟨rfl, rfl, rfl, rfl, rfl, rfl, rfl, rfl, rfl⟩

/-- `flying` with as many bytes as it declares, or fewer. -/
theorem inv_flying (lenField : BitVec 16) (d : Bytes) (h : d.length ≤ lenField.toNat + 1) : StateInv (flying lenField d) := by
  have hl := lenField.isLt
  have h1 : (BitVec.ofNat 17 (lenField.toNat + 1)).toNat = lenField.toNat + 1 := by
    rw [BitVec.toNat_ofNat]
    omega
  have h2 : (BitVec.ofNat 32 d.length).toNat = d.length := by
    rw [BitVec.toNat_ofNat]
    omega
  refine ⟨(by show Config.FrameSizeLegal 32; decide), fun _ => rfl, by simp [flying, withInFlight, base, State.powerOn], fun _ => rfl, ⟨?_, ?_⟩, ?_, ?_, ?_, ?_⟩
  · show d.length = min (BitVec.ofNat 32 d.length).toNat (BitVec.ofNat 17 (lenField.toNat + 1)).toNat
    omega
  · show d.length ≤ 65536
    omega
  · intro _
    show 1 ≤ (BitVec.ofNat 17 (lenField.toNat + 1)).toNat ∧ (BitVec.ofNat 17 (lenField.toNat + 1)).toNat ≤ 65536
    omega
  · intro _
    show (0x010#11 : BitVec 11) ≠ 2047#11
    decide
  · intro h
    cases h
  · intro h
    cases h

/-- A data field with a right trailer. -/
theorem good_field10 : GoodField field10 := ⟨by decide, by decide⟩

theorem good_packet10 (sf : BitVec 2) : GoodPacket (header 0x010#11 sf 5#16) field10 :=
  ⟨by show (0x010#11 : BitVec 11) ≠ 2047#11; decide, rfl, good_field10⟩

/-- `flying` with one byte more than it declares, as an over-long NOHDR frame leaves it. -/
def long : State := { flying 5#16 field10 with pendRx := 7#32 }

theorem inv_long : StateInv long := by
  refine ⟨by decide, by decide, by decide, by decide, by decide, by decide, by decide, ?_, by decide⟩
  intro h
  cases h

/-- A packet with L = 1 and two bytes received, under KEEP_CORRUPT. -/
def longNoTrailer : State := { flying 0#16 (hx [7]) with pendRx := 2#32, keepCorrupt := true }

theorem inv_longNoTrailer : StateInv longNoTrailer := by
  refine ⟨by decide, by decide, by decide, by decide, by decide, by decide, by decide, ?_, by decide⟩
  intro h
  cases h

/-- The zone of 24 zero bytes. -/
def zeros : Bytes := List.replicate 24 0#8

theorem witness_DecodeOfEncodeIsTheInstruction :
    Instr.WellFormed 32 (.mpduPtr 0#5 2046#11 zeros) ∧
    Instr.WellFormed 32 (.phLast 0#3 0#1 0#1 2046#11 0#14 0#16 (List.replicate 23 0#8)) := by
  refine ⟨⟨?_, ?_⟩, ?_, ?_⟩ <;> decide

theorem witness_EncodeOfDecodeIsTheTransfer : decode 32 (.command 3#32 []) = .ok (.eos 0#4 0#24) := by decide

theorem witness_EveryCommandWordDecodesByOp :
    (hx (List.replicate 32 1)).length = (if (1#4 : BitVec 4) = 1#4 then 32 else 0) ∧
    ([] : Bytes).length = (if (2#4 : BitVec 4) = 1#4 then 32 else 0) := by decide

theorem witness_FrameOfAnotherLengthIsRefused :
    ({ base with port := [⟨commandWord 1#4 0#4 0#24, List.replicate 31 0#8⟩] } : State).port =
      ⟨commandWord 1#4 0#4 0#24, List.replicate 31 0#8⟩ :: [] ∧
    (List.replicate 31 0#8).length ≠ base.frameSize ∧ (List.replicate 33 0#8).length ≠ base.frameSize ∧
    (List.replicate 32 0#8).length = base.frameSize := by decide

theorem witness_StepExecutesTheNextTransfer :
    ({ base with port := [⟨3#32, []⟩] } : State).port = ⟨3#32, []⟩ :: [] ∧
    decode base.frameSize (.command 3#32 []) = .ok (.eos 0#4 0#24) ∧ base.port = [] := by decide

theorem witness_PowerOnHasTheInvariants : Config.FrameSizeLegal 8 ∧ Config.FrameSizeLegal 65535 := by decide

/-- A step that answers a next state, from a state with the invariants and a well-formed (empty) output. -/
theorem witness_EveryStepKeepsTheInvariants :
    StateInv { base with port := [⟨0x104#32, []⟩] } ∧
    step { base with port := [⟨0x104#32, []⟩] } = .next { base with keepCorrupt := true } ∧
    exec (.cfg 0#4 1#1 0#23) base = .next { base with keepCorrupt := true } := by
  refine ⟨?_, rfl, rfl⟩
  have i := inv_base
  exact ⟨i.frameSize, i.carryEmpty, i.carryShort, i.gapOfCarry, i.store, i.lenRange, i.notFill,
    fun h => ⟨(i.slotEmpty h).ver, (i.slotEmpty h).type, (i.slotEmpty h).shf, (i.slotEmpty h).apid, (i.slotEmpty h).sf,
      (i.slotEmpty h).cnt, (i.slotEmpty h).len, (i.slotEmpty h).fd, (i.slotEmpty h).rx⟩, i.endedIdle⟩

theorem witness_EveryPktRecordIsWellFormed :
    StateInv base ∧ RecordsOk base.outq ∧ step base = .next base :=
  ⟨inv_base, (by intro r h; cases h), rfl⟩

theorem witness_CountersCountTheRecords : ∀ rsv arg, Instr.eos 0#4 0#24 ≠ .reset rsv arg := by
  intro rsv arg h
  cases h

theorem witness_RecordsPerCommandAreBounded :
    (List.replicate 32 0#8).length = carrying.frameSize ∧ carrying.carry.length ≤ 5 ∧ ended.ended = true ∧
    Instr.illegalE 0#4 0#24 ∈ [Instr.illegal0 0#4 0#24, .illegal6 0#4 0#24, .illegal7 0#4 0#24, .illegal8 0#4 0#24,
      .illegal9 0#4 0#24, .illegalA 0#4 0#24, .illegalB 0#4 0#24, .illegalC 0#4 0#24, .illegalD 0#4 0#24,
      .illegalE 0#4 0#24] := by decide

theorem witness_OnlyCfgAndResetWriteCtrl :
    (∀ rsv keep ign, Instr.eos 0#4 0#24 ≠ .cfg rsv keep ign) ∧ (∀ rsv arg, Instr.eos 0#4 0#24 ≠ .reset rsv arg) := by
  refine ⟨?_, ?_⟩
  · intro rsv keep ign h
    cases h
  · intro rsv arg h
    cases h

/-- n at both ends of its legal range. -/
theorem witness_StreamCommandsAfterEndChangeNothing :
    ended.ended = true ∧ 1 ≤ (1#24 : BitVec 24).toNat ∧ (1#24 : BitVec 24).toNat < ended.frameSize ∧
    1 ≤ (31#24 : BitVec 24).toNat ∧ (31#24 : BitVec 24).toNat < ended.frameSize := by decide

theorem witness_WireWordsAfterEndChangeNothing :
    ended.ended = true ∧ decode ended.frameSize (.tfh (hx [0, 0, 0, 0, 0, 0])) = .ok (.frameHeader 0#2 0#6 0#2 0#6 0#24 0#8) ∧
    decode ended.frameSize (.mpdu (hx [0, 0] ++ zeros)) = .ok (.mpduPtr 0#5 0#11 zeros) ∧
    decode ended.frameSize (.packet (hx [0, 0, 0, 0, 0, 0])) = .ok (.phCont 0#3 0#1 0#1 0#11 0#14 0#16 []) := by decide

theorem witness_IllegalCommandsAreReportedOnly :
    (0xE, Instr.illegalE 0#4 0#24) ∈ [(0x0, Instr.illegal0 0#4 0#24), (0x6, .illegal6 0#4 0#24), (0x7, .illegal7 0#4 0#24),
      (0x8, .illegal8 0#4 0#24), (0x9, .illegal9 0#4 0#24), (0xA, .illegalA 0#4 0#24), (0xB, .illegalB 0#4 0#24),
      (0xC, .illegalC 0#4 0#24), (0xD, .illegalD 0#4 0#24), (0xE, .illegalE 0#4 0#24)] ∧
    (0#24 : BitVec 24).toNat = 0 ∧ base.frameSize ≤ (32#24 : BitVec 24).toNat := by decide

theorem witness_IgnoredCommandBitsHaveNoEffect :
    1 ≤ (31#24 : BitVec 24).toNat ∧ (31#24 : BitVec 24).toNat < base.frameSize := by decide

theorem witness_StatusReadsTheFlags : carrying.carry.length ≤ 5 ∧ carrying.carry.length = 5 := by decide

theorem witness_ActiveRegistersReadTheSlot :
    base.activeValid = false ∧ 0x0B#8 ∈ [0x08#8, 0x09#8, 0x0A#8, 0x0B#8] ∧ (flying 5#16 field10).activeValid = true := by
  decide

/-- j at both ends of CARRY_W0's bytes. -/
theorem witness_CarryRegistersReadCarry : 0 < 4 ∧ 3 < 4 := by decide

/-- k and i at both ends; APID 2046 and the bit after it. -/
theorem witness_GroupRegistersReadTheTable : 63 < 64 ∧ 31 < 32 ∧ 32 * 63 + 30 ≤ 2046 ∧ ¬ 32 * 63 + 31 ≤ 2046 := by decide

/-- The ends of the two unassigned ranges. -/
theorem witness_OtherRegistersReadTheirElements :
    (0x0E ≤ (0x0E#8 : BitVec 8).toNat ∧ (0x3F#8 : BitVec 8).toNat ≤ 0x3F) ∧ 0x80 ≤ (0x80#8 : BitVec 8).toNat ∧
    0x80 ≤ (0xFF#8 : BitVec 8).toNat := by decide

/-- The frame of the reader's witnesses: counter 0, FHP = 0, a zone of zeros. -/
def frame0 : Bytes := frameOf [0, 0, 0] [0, 0] (List.replicate 24 0)

theorem witness_FrameIsHeaderWordThenMpduWord :
    base.ended = false ∧ frame0.length = base.frameSize ∧
    decode base.frameSize (.tfh (frame0.take 6)) = .ok (.frameHeader 1#2 0x2A#6 0#2 5#6 0#24 0#8) ∧
    decode base.frameSize (.mpdu (frame0.drop 6)) = .ok (.mpduPtr 0#5 0#11 zeros) := by decide

theorem witness_FrameHeaderWordUpdatesTheReader : base.ended = false := rfl

theorem witness_MpduAndPacketWordsKeepTheReader : base.ended = false := rfl

theorem witness_FirstFrameIsNotCompared :
    base.ended = false ∧ base.haveLast = false ∧ frame0.length = base.frameSize ∧
    decode base.frameSize (.mpdu (frame0.drop 6)) = .ok (.mpduPtr 0#5 0#11 zeros) := by decide

/-- The 24-bit wrap. -/
theorem witness_FrameInSequenceCountsNothing :
    let s : State := { base with haveLast := true, lastCtr := 0xFFFFFF#24 }
    s.ended = false ∧ s.haveLast = true ∧ (s.lastCtr.toNat + 1) % 2 ^ 24 = (be24 frame0 2).toNat ∧
    decode s.frameSize (.mpdu (frame0.drop 6)) = .ok (.mpduPtr 0#5 0#11 zeros) ∧ frame0.length = s.frameSize := by decide

/-- The smallest gap: one frame missing. -/
theorem witness_ForwardGapIsCountedAndDegrades :
    let f := frameOf [0, 0, 2] [0, 0] (List.replicate 24 0)
    let s : State := { base with haveLast := true }
    s.ended = false ∧ s.haveLast = true ∧ s.lastCtr.toNat + 1 < (be24 f 2).toNat ∧
    decode s.frameSize (.mpdu (f.drop 6)) = .ok (.mpduPtr 0#5 0#11 zeros) ∧ f.length = s.frameSize := by decide

/-- A repeated frame. -/
theorem witness_CounterAnomalyCountsNothingButDegrades :
    let s : State := { base with haveLast := true }
    s.ended = false ∧ s.haveLast = true ∧ (be24 frame0 2).toNat ≤ s.lastCtr.toNat ∧
    ¬ (s.lastCtr = 0xFFFFFF#24 ∧ be24 frame0 2 = 0#24) ∧
    decode s.frameSize (.mpdu (frame0.drop 6)) = .ok (.mpduPtr 0#5 0#11 zeros) ∧ frame0.length = s.frameSize := by decide

theorem witness_AcceptedFrameUpdatesTheReader : base.ended = false := rfl

/-- Two operands that differ in every unread bit. -/
theorem witness_UnreadFrameBitsHaveNoEffect :
    let f := hx [0, 0x05, 0, 0, 0, 0x00, 0x07, 0xFF]
    let f' := hx [0, 0xC5, 0, 0, 0, 0xFF, 0xFF, 0xFF]
    f.length = f'.length ∧ (∀ k, k ≠ 1 → k ≠ 5 → k ≠ 6 → byteAt f k = byteAt f' k) ∧
    (byteAt f 1).extractLsb' 0 6 = (byteAt f' 1).extractLsb' 0 6 ∧
    (byteAt f 6).extractLsb' 0 3 = (byteAt f' 6).extractLsb' 0 3 := by
  refine ⟨by decide, ?_, by decide, by decide⟩
  intro k h1 h5 h6
  by_cases h : k < 8
  · interval_cases k <;> first | rfl | omega
  · obtain ⟨m, rfl⟩ : ∃ m, k = m + 8 := ⟨k - 8, by omega⟩
    rfl

theorem witness_ChannelFieldsReachOnlyLastFhid : base.ended = false := rfl

theorem witness_EndOfStreamReportsAndLeavesNothing :
    base.ended = false ∧ 1 ≤ (1#24 : BitVec 24).toNat ∧ (31#24 : BitVec 24).toNat < base.frameSize := by decide

theorem witness_TailIsItsNoticeThenEos :
    base.ended = false ∧ 1 ≤ (31#24 : BitVec 24).toNat ∧ (31#24 : BitVec 24).toNat < base.frameSize := by decide

theorem witness_EosWithoutPacketDiscardsCarry :
    base.ended = false ∧ base.activeValid = false ∧ base.carry = [] ∧ carrying.ended = false ∧
    carrying.activeValid = false ∧ carrying.carry ≠ [] := by decide

theorem witness_ShortPacketIsDropped :
    StateInv (flying 5#16 (hx [1, 2, 3, 4, 5])) ∧ (flying 5#16 (hx [1, 2, 3, 4, 5])).ended = false ∧
    (flying 5#16 (hx [1, 2, 3, 4, 5])).activeValid = true ∧
    (flying 5#16 (hx [1, 2, 3, 4, 5])).pendRx.toNat < (flying 5#16 (hx [1, 2, 3, 4, 5])).pendLen.toNat :=
  ⟨inv_flying _ _ (by decide), rfl, rfl, by decide⟩

/-- An exact packet, and one with a byte too many. -/
theorem witness_GoodPacketIsReleasedTrimmed :
    (StateInv (flying 5#16 field10) ∧ (flying 5#16 field10).ended = false ∧ (flying 5#16 field10).activeValid = true ∧
      (flying 5#16 field10).pendLen.toNat ≤ (flying 5#16 field10).pendRx.toNat ∧ GoodField (flying 5#16 field10).pendData) ∧
    (StateInv long ∧ long.ended = false ∧ long.activeValid = true ∧ long.pendLen.toNat ≤ long.pendRx.toNat ∧
      GoodField long.pendData ∧ long.pendLen.toNat < long.pendRx.toNat) :=
  ⟨⟨inv_flying _ _ (by decide), rfl, rfl, by decide, good_field10⟩, inv_long, rfl, rfl, by decide, good_field10, by decide⟩

/-- The two-byte data field `00 00`: the CRC of the empty payload is 0xFFFF. -/
theorem witness_CrcMismatchIsCountedAndKeptOnlyIfAsked :
    StateInv (flying 1#16 (hx [0, 0])) ∧ (flying 1#16 (hx [0, 0])).ended = false ∧
    (flying 1#16 (hx [0, 0])).activeValid = true ∧
    (flying 1#16 (hx [0, 0])).pendLen.toNat ≤ (flying 1#16 (hx [0, 0])).pendRx.toNat ∧
    2 ≤ (flying 1#16 (hx [0, 0])).pendLen.toNat ∧
    be16 (flying 1#16 (hx [0, 0])).pendData 0 ≠ config.crc16Fn ((flying 1#16 (hx [0, 0])).pendData.take 0) ∧
    (flying 1#16 (hx [0, 0])).keepCorrupt = false ∧
    ({ flying 1#16 (hx [0, 0]) with keepCorrupt := true } : State).keepCorrupt = true :=
  ⟨inv_flying _ _ (by decide), rfl, rfl, by decide, by decide, by decide, rfl, rfl⟩

theorem witness_PacketWithoutTrailerFailsTheCrc :
    StateInv (flying 0#16 (hx [7])) ∧ (flying 0#16 (hx [7])).ended = false ∧ (flying 0#16 (hx [7])).activeValid = true ∧
    (flying 0#16 (hx [7])).pendLen.toNat = 1 ∧ (flying 0#16 (hx [7])).pendRx.toNat = 1 ∧
    (flying 0#16 (hx [7])).keepCorrupt = false ∧
    StateInv longNoTrailer ∧ longNoTrailer.ended = false ∧ longNoTrailer.activeValid = true ∧
    longNoTrailer.pendLen.toNat = 1 ∧ 1 < longNoTrailer.pendRx.toNat ∧ longNoTrailer.keepCorrupt = true :=
  ⟨inv_flying _ _ (by decide), rfl, rfl, by decide, by decide, rfl, inv_longNoTrailer, rfl, rfl, by decide, by decide, rfl⟩

theorem witness_NoHeaderFrameContinuesThePacket :
    (flying 5#16 (hx [1])).ended = false ∧ (flying 5#16 (hx [1])).activeValid = true ∧ Memory.wf (flying 5#16 (hx [1])) :=
  ⟨rfl, rfl, (inv_flying _ _ (by decide)).store⟩

/-- The zone whose head completes the packet begun in `carrying`: 7 bytes. -/
def zoneSplit : Bytes := hx [0x05, 0x01, 0x02, 0x03, 0x04, 0x89, 0xC3] ++ List.replicate 17 0#8

/-- The zone that begins with the last byte of a header with L = 23, and its 23 data bytes. -/
def zoneLong : Bytes := hx [0x16] ++ List.replicate 23 0#8

/-- `carrying` across a gap. -/
def gapped : State := { carrying with carryGap := true }

/-- No gap; across a gap a packet that fills the zone, one that ends inside it, a fill, and a zone of no byte. -/
theorem witness_NoHeaderFrameWithoutContextIsParsed :
    (carrying.ended = false ∧ carrying.activeValid = false ∧ carrying.carryGap = false ∧ carrying.carry.length ≤ 5 ∧
      zeros.length = Config.zone carrying.frameSize) ∧
    (gapped.carryGap = true ∧ gapped.carry.length ≤ 5 ∧ gapped.carry ≠ [] ∧
      gapped.carry ++ zoneLong = headerBytes (header 0x010#11 3#2 22#16) ++ zoneLong.drop 1 ∧
      (zoneLong.drop 1).length ≤ (22#16 : BitVec 16).toNat + 1 ∧ Accepted gapped.groupOpen (header 0x010#11 3#2 22#16)) ∧
    (gapped.carry ++ zoneSplit = packetBytes (header 0x010#11 3#2 5#16) field10 ++ zoneSplit.drop 7 ∧
      field10.length = (5#16 : BitVec 16).toNat + 1 ∧ zoneSplit.drop 7 ≠ []) ∧
    ¬ Accepted gapped.groupOpen (header 2047#11 3#2 22#16) ∧
    (let s : State := { State.powerOn 8 with carry := hx [0, 0x10], carryGap := true }
     ([] : Bytes).length = Config.zone s.frameSize ∧ (s.carry ++ []).length < 6 ∧ s.carry ≠ []) := by decide

/-- The pointer at both ends of the zone. -/
theorem witness_UnownedHeadIsDiscarded :
    base.ended = false ∧ Idle base ∧ zeros.length = Config.zone base.frameSize ∧
    (0#11 : BitVec 11).toNat < Config.zone base.frameSize ∧ (0#11 : BitVec 11) ≠ Config.fhpNohdr ∧
    (23#11 : BitVec 11).toNat < Config.zone base.frameSize ∧ (23#11 : BitVec 11) ≠ Config.fhpNohdr :=
  ⟨rfl, idle_base, by decide, by decide, by decide, by decide, by decide⟩

theorem witness_ResidueBeforeTheHeaderIsDiscarded :
    carrying.ended = false ∧ carrying.activeValid = false ∧ carrying.carry ≠ [] ∧
    carrying.carry.length + (0#11 : BitVec 11).toNat < 6 ∧ zeros.length = Config.zone carrying.frameSize ∧
    (0#11 : BitVec 11).toNat < Config.zone carrying.frameSize := by decide

/-- The same, followed at once by a second packet, a CONT. -/
def zoneTwo : Bytes :=
  hx [0x05, 0x01, 0x02, 0x03, 0x04, 0x89, 0xC3] ++ headerBytes (header 0x010#11 0#2 5#16) ++ field10 ++ List.replicate 5 0#8

/-- Two packets before a residue of two bytes, and before none. -/
theorem resolved_zoneTwo (s : State) :
    (∃ u, CarryResolved (carrying.carry ++ zoneTwo.take (21#11 : BitVec 11).toNat) carrying.carryGap s u) ∧
    (∃ u, CarryResolved (carrying.carry ++ zoneTwo.take (19#11 : BitVec 11).toNat) carrying.carryGap s u) ∧
    carrying.carry ++ zoneTwo.take (21#11 : BitVec 11).toNat =
      packetBytes (header 0x010#11 3#2 5#16) field10 ++ (packetBytes (header 0x010#11 0#2 5#16) field10 ++ hx [0, 0]) :=
  ⟨⟨_, .packet (header 0x010#11 3#2 5#16) field10 _ _ _ _ (by decide) (by decide)
      (.packet (header 0x010#11 0#2 5#16) field10 _ _ _ _ (by decide) (by decide) (.residue (hx [0, 0]) _ _ (by decide) (by decide)))⟩,
    ⟨_, .packet (header 0x010#11 3#2 5#16) field10 _ _ _ _ (by decide) (by decide)
      (.last (header 0x010#11 0#2 5#16) field10 _ _ (by decide))⟩, by decide⟩

/-- The pointer at both ends of the zone, and the ends of the buffer: a complete packet (V-DMX-9), a packet with two of its
six bytes (V-DMX-10), two packets, two packets and a residue, a residue alone (V-DMX-3). -/
theorem witness_SplitHeaderIsCompletedAndReleased :
    (carrying.ended = false ∧ carrying.activeValid = false ∧ 1 ≤ carrying.carry.length ∧ carrying.carry.length ≤ 5 ∧
      SlotEmpty carrying ∧ zoneSplit.length = Config.zone carrying.frameSize ∧
      zoneTwo.length = Config.zone carrying.frameSize ∧ carrying.pendData = []) ∧
    (∀ fhp ∈ [0#11, 3#11, 7#11, 19#11, 21#11, 23#11],
      fhp.toNat < Config.zone carrying.frameSize ∧ fhp ≠ Config.fhpNohdr) ∧
    (∀ s, (∃ u, CarryResolved (carrying.carry ++ zoneSplit.take (7#11 : BitVec 11).toNat) carrying.carryGap s u) ∧
      (∃ u, CarryResolved (carrying.carry ++ zoneSplit.take (3#11 : BitVec 11).toNat) carrying.carryGap s u) ∧
      (∃ u, CarryResolved (carrying.carry ++ zoneTwo.take (19#11 : BitVec 11).toNat) carrying.carryGap s u) ∧
      (∃ u, CarryResolved (carrying.carry ++ zoneTwo.take (21#11 : BitVec 11).toNat) carrying.carryGap s u) ∧
      ∃ u, CarryResolved (carrying.carry ++ zoneTwo.take (0#11 : BitVec 11).toNat) carrying.carryGap s u) :=
  ⟨⟨rfl, rfl, by decide, by decide, inv_carrying.slotEmpty rfl, by decide, by decide, rfl⟩, by decide, fun s =>
    ⟨⟨_, .last (header 0x010#11 3#2 5#16) field10 _ s (by decide)⟩,
      ⟨_, .last (header 0x010#11 3#2 5#16) (hx [1, 2]) _ s (by decide)⟩, (resolved_zoneTwo s).2.1, (resolved_zoneTwo s).1,
      ⟨_, .residue carrying.carry _ s (by decide) (by decide)⟩⟩⟩

/-- One byte short after the head. -/
theorem witness_ShortPacketIsDroppedAtTheNextHeader :
    StateInv (flying 5#16 (hx [1])) ∧ (flying 5#16 (hx [1])).ended = false ∧ (flying 5#16 (hx [1])).activeValid = true ∧
    zeros.length = Config.zone (flying 5#16 (hx [1])).frameSize ∧
    (4#11 : BitVec 11).toNat < Config.zone (flying 5#16 (hx [1])).frameSize ∧ (4#11 : BitVec 11) ≠ Config.fhpNohdr ∧
    (flying 5#16 (hx [1])).pendRx.toNat + (4#11 : BitVec 11).toNat < (flying 5#16 (hx [1])).pendLen.toNat :=
  ⟨inv_flying _ _ (by decide), rfl, rfl, by decide, by decide, by decide, by decide⟩

/-- The zone whose first five bytes complete `01` to the data field of pkt10. -/
def zoneRest : Bytes := hx [0x02, 0x03, 0x04, 0x89, 0xC3] ++ List.replicate 19 0#8

/-- A head that completes the packet, and one that makes it long. -/
theorem witness_PacketIsCompletedByTheHead :
    StateInv (flying 5#16 (hx [1])) ∧ (flying 5#16 (hx [1])).ended = false ∧ (flying 5#16 (hx [1])).activeValid = true ∧
    zoneRest.length = Config.zone (flying 5#16 (hx [1])).frameSize ∧
    (5#11 : BitVec 11).toNat < Config.zone (flying 5#16 (hx [1])).frameSize ∧ (5#11 : BitVec 11) ≠ Config.fhpNohdr ∧
    (flying 5#16 (hx [1])).pendRx.toNat + (5#11 : BitVec 11).toNat = (flying 5#16 (hx [1])).pendLen.toNat ∧
    GoodField ((flying 5#16 (hx [1])).pendData ++ zoneRest.take (5#11 : BitVec 11).toNat) ∧
    (23#11 : BitVec 11).toNat < Config.zone (flying 5#16 (hx [1])).frameSize ∧
    (flying 5#16 (hx [1])).pendLen.toNat < (flying 5#16 (hx [1])).pendRx.toNat + (23#11 : BitVec 11).toNat :=
  ⟨inv_flying _ _ (by decide), rfl, rfl, by decide, by decide, by decide, by decide, good_field10, by decide, by decide⟩

/-- The data field whose last two bytes are the CRC of the bytes before them: 22 zeros. -/
def fieldLong : Bytes := List.replicate 22 0#8 ++ bytes16 (config.crc16Fn (List.replicate 22 0#8))

/-- The pointer at both ends of the out-of-range values, and the states of the other clauses: nothing in progress, a packet
the zone leaves short, one it completes, one it makes long (as in V-DMX-13), bytes carried before a whole packet. -/
theorem witness_OutOfRangePointerTakesTheZoneAsHead :
    (base.ended = false ∧ zeros.length = Config.zone base.frameSize ∧
      Config.zone base.frameSize ≤ (24#11 : BitVec 11).toNat ∧ (24#11 : BitVec 11) ≠ Config.fhpNohdr ∧
      Config.zone base.frameSize ≤ (2046#11 : BitVec 11).toNat ∧ (2046#11 : BitVec 11) ≠ Config.fhpNohdr ∧ Idle base) ∧
    (StateInv (flying 25#16 (hx [1])) ∧ (flying 25#16 (hx [1])).activeValid = true ∧
      (flying 25#16 (hx [1])).pendRx.toNat + zeros.length < (flying 25#16 (hx [1])).pendLen.toNat) ∧
    (StateInv (flying 23#16 []) ∧ (flying 23#16 []).activeValid = true ∧
      fieldLong.length = Config.zone (flying 23#16 []).frameSize ∧
      (flying 23#16 []).pendRx.toNat + fieldLong.length = (flying 23#16 []).pendLen.toNat ∧
      GoodField ((flying 23#16 []).pendData ++ fieldLong)) ∧
    (StateInv (flying 5#16 (hx [1])) ∧ (flying 5#16 (hx [1])).activeValid = true ∧
      (flying 5#16 (hx [1])).pendLen.toNat < (flying 5#16 (hx [1])).pendRx.toNat + zeros.length) ∧
    (StateInv carrying ∧ carrying.activeValid = false ∧ carrying.carry ≠ [] ∧
      zoneLong.length = Config.zone carrying.frameSize ∧
      ∀ s, ∃ u, CarryResolved (carrying.carry ++ zoneLong) carrying.carryGap s u) :=
  ⟨⟨rfl, by decide, by decide, by decide, by decide, by decide, idle_base⟩,
    ⟨inv_flying _ _ (by decide), rfl, by decide⟩,
    ⟨inv_flying _ _ (by decide), rfl, by decide, by decide, by decide, by decide +kernel⟩,
    ⟨inv_flying _ _ (by decide), rfl, by decide⟩, inv_carrying, rfl, by decide, by decide, fun s =>
      ⟨_, .last (header 0x010#11 3#2 22#16) (zoneLong.drop 1) _ s (by decide)⟩⟩

/-- Two zones (of any length) after one received byte. -/
theorem witness_SpanningPacketIsTheConcatenation :
    StateInv (flying 5#16 (hx [1])) ∧ (flying 5#16 (hx [1])).ended = false ∧ (flying 5#16 (hx [1])).activeValid = true ∧
    (flying 5#16 (hx [1])).pendRx.toNat + ([hx [2, 3], hx [4, 0x89, 0xC3]] : List Bytes).flatten.length =
      (flying 5#16 (hx [1])).pendLen.toNat ∧
    GoodField ((flying 5#16 (hx [1])).pendData ++ ([hx [2, 3], hx [4, 0x89, 0xC3]] : List Bytes).flatten) :=
  ⟨inv_flying _ _ (by decide), rfl, rfl, by decide, good_field10⟩

/-- A fill that ends with the buffer, and one that ends one byte before it. -/
theorem witness_FillIsSkippedSilently :
    base.ended = false ∧ Idle base ∧ RestFits base.frameSize (hx [0x55]) ∧ (hx [0x55]).length ≤ (0#16 : BitVec 16).toNat + 1 ∧
    RestFits base.frameSize (hx [0x55, 0x55]) ∧ ¬ (hx [0x55, 0x55]).length ≤ (0#16 : BitVec 16).toNat + 1 :=
  ⟨rfl, idle_base, by decide, by decide, by decide, by decide⟩

theorem witness_OrphanIsReportedAndSkipped :
    base.ended = false ∧ Idle base ∧ RestFits base.frameSize (hx [1]) ∧ (2046#11 : BitVec 11) ≠ Config.apidFill ∧
    groupBit base.groupOpen 2046#11 = false ∧
    (2#2, Instr.phLast 0#3 0#1 0#1 2046#11 0#14 0#16 (hx [1])) ∈
      [(0#2, Instr.phCont 0#3 0#1 0#1 2046#11 0#14 0#16 (hx [1])),
        (2#2, .phLast 0#3 0#1 0#1 2046#11 0#14 0#16 (hx [1]))] :=
  ⟨rfl, idle_base, by decide, by decide, by decide +kernel, by decide⟩

/-- The state with the group of APID 0x010 open. -/
def opened : State := setGroup 0x010#11 true base

/-- An exact fit of a FIRST in the power-on state, and of a LAST in a state with its group open. -/
theorem witness_AcceptedHeaderGoesInFlight :
    let rest := hx [1]
    let forms := [(Instr.phFirst 0#3 0#1 0#1 0x010#11 0#14 0#16 rest, 1#2, false, true),
      (.phStandalone 0#3 0#1 0#1 0x010#11 0#14 0#16 rest, 3#2, false, false),
      (.phCont 0#3 0#1 0#1 0x010#11 0#14 0#16 rest, 0#2, true, true),
      (.phLast 0#3 0#1 0#1 0x010#11 0#14 0#16 rest, 2#2, true, false)]
    base.ended = false ∧ Idle base ∧ opened.ended = false ∧ Idle opened ∧ (0x010#11 : BitVec 11) ≠ Config.apidFill ∧
    rest.length ≤ (0#16 : BitVec 16).toNat + 1 ∧
    (Instr.phFirst 0#3 0#1 0#1 0x010#11 0#14 0#16 rest, 1#2, false, true) ∈ forms ∧
    (Instr.phLast 0#3 0#1 0#1 0x010#11 0#14 0#16 rest, 2#2, true, false) ∈ forms ∧
    (true = true → groupBit opened.groupOpen 0x010#11 = true) :=
  ⟨rfl, idle_base, rfl, ⟨rfl, rfl, rfl⟩, by decide, by decide, by decide, by decide, by decide +kernel⟩

theorem witness_CompletePacketInBufferIsReleased :
    let rest := hx [0]
    let forms := [(Instr.phFirst 0#3 0#1 0#1 0x010#11 0#14 5#16 (field10 ++ rest), 1#2, false, true),
      (.phStandalone 0#3 0#1 0#1 0x010#11 0#14 5#16 (field10 ++ rest), 3#2, false, false),
      (.phCont 0#3 0#1 0#1 0x010#11 0#14 5#16 (field10 ++ rest), 0#2, true, true),
      (.phLast 0#3 0#1 0#1 0x010#11 0#14 5#16 (field10 ++ rest), 2#2, true, false)]
    base.ended = false ∧ Idle base ∧ opened.ended = false ∧ Idle opened ∧ RestFits base.frameSize (field10 ++ rest) ∧
    rest ≠ [] ∧ (0x010#11 : BitVec 11) ≠ Config.apidFill ∧ field10.length = (5#16 : BitVec 16).toNat + 1 ∧
    (Instr.phStandalone 0#3 0#1 0#1 0x010#11 0#14 5#16 (field10 ++ rest), 3#2, false, false) ∈ forms ∧
    (Instr.phCont 0#3 0#1 0#1 0x010#11 0#14 5#16 (field10 ++ rest), 0#2, true, true) ∈ forms ∧
    (true = true → groupBit opened.groupOpen 0x010#11 = true) :=
  ⟨rfl, idle_base, rfl, ⟨rfl, rfl, rfl⟩, by decide, by decide, by decide, by decide, by decide, by decide,
    by decide +kernel⟩

theorem witness_PacketWordClosesWhatIsInProgress :
    ((flying 5#16 (hx [1])).ended = false ∧ StateInv (flying 5#16 (hx [1])) ∧ (flying 5#16 (hx [1])).activeValid = true ∧
      (flying 5#16 (hx [1])).pendRx.toNat < (flying 5#16 (hx [1])).pendLen.toNat) ∧
    (long.ended = false ∧ StateInv long ∧ long.activeValid = true ∧ long.pendLen.toNat < long.pendRx.toNat) ∧
    (carrying.ended = false ∧ StateInv carrying ∧ carrying.activeValid = false ∧ carrying.carry ≠ []) :=
  ⟨⟨rfl, inv_flying _ _ (by decide), rfl, by decide⟩, ⟨rfl, inv_long, rfl, by decide⟩, rfl, inv_carrying, rfl, by decide⟩

/-- One packet and no packet; FRAME_SIZE = 22 and 10 make the zone fit. -/
theorem witness_BackToBackPacketsAreReleasedInOrder :
    (let s : State := State.powerOn 22
     let packets := [(header 0x010#11 3#2 5#16, field10)]
     s.ended = false ∧ Idle s ∧ 1 ≤ (hx [0, 0x23]).length ∧ (hx [0, 0x23]).length ≤ 5 ∧
     (∀ p ∈ packets, GoodPacket p.1 p.2 ∧ p.1.sf = 3#2 ∧ groupBit s.groupOpen p.1.apid = false) ∧
     ((packets.map fun p => packetBytes p.1 p.2).flatten ++ hx [0, 0x23]).length = Config.zone s.frameSize) ∧
    (let s : State := State.powerOn 13
     s.ended = false ∧ Idle s ∧ (hx [0, 1, 2, 3, 4]).length ≤ 5 ∧
     ((([] : List (PacketHeader × Bytes)).map fun p => packetBytes p.1 p.2).flatten ++ hx [0, 1, 2, 3, 4]).length =
      Config.zone s.frameSize) := by
  refine ⟨⟨rfl, ⟨rfl, rfl, rfl⟩, by decide, by decide, ?_, by decide⟩, rfl, ⟨rfl, rfl, rfl⟩, by decide, by decide⟩
  intro p hp
  rw [List.mem_singleton] at hp
  subst hp
  exact ⟨good_packet10 3#2, rfl, by decide +kernel⟩

end Sys2Proof.Tests
end

