-- ==== Sys2Proof/Proofs/Scope.lean ====
section
/-! The command decoder inverted (R67, R68), and the statement of 00_scope.md: a step takes one whole transfer. -/

namespace Sys2Proof

/-- A word is put together again from the number OP has and from the fields read from it (R67). -/
theorem commandWord_of_opOf {w : Word} {op : BitVec 4} (h : (opOf w).toNat = op.toNat) :
    commandWord op (rsvOf w) (argOf w) = w := by
  rw [← BitVec.eq_of_toNat_eq h, commandWord_fields]

/-- The transfer of a command other than FRAME, whose data operand is empty (R68). -/
theorem command_of_opOf {w : Word} {f : Bytes} {op : BitVec 4} (hf : opOf w ≠ 0x1#4 → f = [])
    (h : (opOf w).toNat = op.toNat) (hop : op ≠ 0x1#4) :
    Encoded.command (commandWord op (rsvOf w) (argOf w)) [] = .command w f := by
  rw [commandWord_of_opOf h, hf (BitVec.eq_of_toNat_eq h ▸ hop)]

/-- Each OP keeps every bit of its word, and FRAME alone its data operand. Four arms differ: FRAME has an operand, CFG and
READ hold ARG in two parts, and RESET is the arm left over when no other OP matched. -/
theorem encode_decodeOp {w : Word} {f : Bytes} (hf : opOf w ≠ 0x1#4 → f = []) :
    encode (decodeOp w f) = .command w f := by
  unfold decodeOp
  split
  case h_2 hop => rw [encode, commandWord_of_opOf (op := 0x1#4) hop]
  case h_5 hop =>
    have harg : w.extractLsb' 9 23 ++ w.extractLsb' 8 1 = argOf w := argOf_split w 23 1 rfl
    rw [encode, harg]
    exact command_of_opOf hf hop (by decide)
  case h_6 hop =>
    have harg : w.extractLsb' 16 16 ++ w.extractLsb' 8 8 = argOf w := argOf_split w 16 8 rfl
    rw [encode, harg]
    exact command_of_opOf hf hop (by decide)
  case h_16 =>
    have hop : (opOf w).toNat = 0xF := by
      have hlt := (opOf w).isLt
      grind
    exact command_of_opOf hf hop (by decide)
  all_goals
    rename_i hop
    exact command_of_opOf hf hop (by decide)

theorem decodeCommand_ok_iff {n : Nat} {w : Word} {f : Bytes} {i : Instr} :
    decodeCommand n w f = .ok i ↔ f.length = operandLength n w ∧ decodeOp w f = i := by
  unfold decodeCommand
  split
  · next hlen => simp [hlen]
  · next hlen => split <;> simp [hlen]

/-- A command that is no FRAME has no bytes in an operand of the length it asks for (R68). -/
theorem operand_eq_nil {n : Nat} {w : Word} {f : Bytes} (hlen : f.length = operandLength n w) (hop : opOf w ≠ 0x1#4) :
    f = [] := by
  rw [operandLength, if_neg hop] at hlen
  exact List.length_eq_zero_iff.mp hlen

/-- The encoding of a decoded command is the whole transfer it was decoded from. -/
theorem encode_of_decodeCommand {n : Nat} {w : Word} {f : Bytes} {i : Instr} (h : decodeCommand n w f = .ok i) :
    encode i = .command w f := by
  obtain ⟨hlen, rfl⟩ := decodeCommand_ok_iff.mp h
  exact encode_decodeOp (operand_eq_nil hlen)

end Sys2Proof

namespace Sys2Proof.Machine

/-- A step on a nonempty port whose oldest transfer decodes. -/
theorem step_decoded {s : State} {c : Command} {later : List Command} {i : Instr} (hport : s.port = c :: later)
    (hdec : decode s.frameSize c.encoded = .ok i) : step s = exec i { s with port := later } := by
  simp [step, hport, hdec]

/-- Settles O6: the step by the rules for a decoded transfer and an empty port, the whole command by inverting the
command decoder. -/
theorem stepExecutesTheNextTransfer : Obligations.StepExecutesTheNextTransfer := by
  unfold Obligations.StepExecutesTheNextTransfer
  constructor
  · intro s c later i hport hdec
    exact ⟨step_decoded hport hdec, encode_of_decodeCommand hdec⟩
  · intro s hport
    exact step_idle hport

end Sys2Proof.Machine
end

section
/-! The statements of 10_state.md: OUTQ is append-only under every instruction (R38), and what each index of the register
view reads (R22 to R37). -/

namespace Sys2Proof.Machine

/-! ### OUTQ under the operations (R38)

"OUTQ is append-only" is the list prefix order between the OUTQ before and the OUTQ after; its transitivity composes the
operations. -/

theorem Accounts.outq_prefix {s t : State} (h : Accounts s t) : s.outq <+: t.outq := by
  obtain ⟨l, hl, -⟩ := h
  exact ⟨l, hl.symm⟩

theorem outq_prefix_raiseEvent (e : Event) (s : State) : s.outq <+: (raiseEvent e s).outq := ⟨[.evt e], rfl⟩

theorem outq_prefix_compareCtr (ctr : BitVec 24) (s : State) : s.outq <+: (compareCtr ctr s).outq := by
  unfold compareCtr
  split
  · cases ctrVerdict s.lastCtr ctr with
    | inSequence => exact List.prefix_rfl
    | gap => simp [forwardGap]
    | anomaly => simp [ctrAnomaly]
  · exact List.prefix_rfl

theorem outq_prefix_headerStage (h : FrameHeader) (s : State) : s.outq <+: (headerStage h s).outq := by
  simpa [headerStage, counterCheck] using outq_prefix_compareCtr h.ctr s

theorem outq_prefix_mpduStage (fhp : BitVec 11) (z : Bytes) (s : State) : s.outq <+: (mpduStage fhp z s).outq :=
  (accounts_demux fhp z (recordFhp fhp s)).outq_prefix

theorem outq_prefix_acceptFrame (f : Bytes) (s : State) : s.outq <+: (acceptFrame f s).outq :=
  (outq_prefix_headerStage _ s).trans (outq_prefix_mpduStage _ _ _)

theorem outq_prefix_packetStage (h : PacketHeader) (rest : Bytes) (s : State) :
    s.outq <+: (packetStage h rest s).outq := by
  rw [packetStage_eq_parse]
  exact ((accounts_closeHead [] s).trans (accounts_parse _ _ _)).outq_prefix

theorem outq_prefix_endOfStream (s : State) : s.outq <+: (endOfStream s).outq := (accounts_endOfStream s).outq_prefix

/-- A command turned away after the end appends its notice; otherwise its work decides (R108). -/
theorem outq_prefix_unlessEnded {op : BitVec 4} {work : State → State} {s : State} (h : s.outq <+: (work s).outq) :
    s.outq <+: (unlessEnded op work s).outq := by
  unfold unlessEnded
  split
  · exact outq_prefix_raiseEvent _ s
  · exact h

/-- Every instruction completes, and has appended to OUTQ at most (R38, R210). -/
theorem exec_outq_prefix (i : Instr) (s : State) : ∃ t, exec i s = .next t ∧ s.outq <+: t.outq := by
  cases i with
  | frame rsv arg f => exact ⟨_, rfl, outq_prefix_unlessEnded (outq_prefix_acceptFrame f s)⟩
  | tail rsv n =>
    have harm : exec (.tail rsv n) s = execTail rsv n s := rfl
    rw [harm, execTail]
    split
    · exact ⟨_, rfl, outq_prefix_raiseEvent _ s⟩
    · have hend : s.outq <+: (endOfStream (raiseEvent (.truncatedTail n) s)).outq :=
        (outq_prefix_raiseEvent _ s).trans (outq_prefix_endOfStream _)
      exact ⟨_, rfl, outq_prefix_unlessEnded hend⟩
  | eos rsv arg => exact ⟨_, rfl, outq_prefix_unlessEnded (outq_prefix_endOfStream s)⟩
  | cfg rsv keep ign => exact ⟨_, rfl, List.prefix_rfl⟩
  | read rsv index ign => exact ⟨_, rfl, [.rdata (regView s index)], rfl⟩
  | reset rsv arg => exact ⟨_, rfl, List.prefix_rfl⟩
  | illegal0 rsv arg | illegal6 rsv arg | illegal7 rsv arg | illegal8 rsv arg | illegal9 rsv arg | illegalA rsv arg
  | illegalB rsv arg | illegalC rsv arg | illegalD rsv arg | illegalE rsv arg =>
    exact ⟨_, rfl, outq_prefix_raiseEvent _ s⟩
  | frameHeader version scid unused1 vcid ctr unused5 =>
    exact ⟨_, rfl, outq_prefix_unlessEnded (outq_prefix_headerStage _ s)⟩
  | mpduNohdr spare zone => exact ⟨_, rfl, outq_prefix_unlessEnded (outq_prefix_mpduStage _ zone s)⟩
  | mpduPtr spare fhp zone => exact ⟨_, rfl, outq_prefix_unlessEnded (outq_prefix_mpduStage fhp zone s)⟩
  | phFill ver type shf sf cnt lenField rest =>
    exact ⟨_, rfl, outq_prefix_unlessEnded (outq_prefix_packetStage _ rest s)⟩
  | phCont ver type shf apid cnt lenField rest | phFirst ver type shf apid cnt lenField rest
  | phLast ver type shf apid cnt lenField rest | phStandalone ver type shf apid cnt lenField rest =>
    exact ⟨_, rfl, outq_prefix_unlessEnded (outq_prefix_packetStage _ rest s)⟩

/-- Settles O10: the prefix order, with the appended records named. -/
theorem outqOnlyGrows : Obligations.OutqOnlyGrows := by
  unfold Obligations.OutqOnlyGrows
  intro i s
  obtain ⟨t, ht, l, hl⟩ := exec_outq_prefix i s
  exact ⟨t, l, ht, hl.symm⟩

/-! ### READ and the table of R22 -/

/-- READ answers the register view of its index and changes nothing else (R174). -/
theorem exec_read (rsv : BitVec 4) (index : BitVec 8) (ign : BitVec 16) (s : State) :
    exec (.read rsv index ign) s = readAnswer s (regView s index) := rfl

/-- From index 14 on the table has the group words, and 0 outside them (R22, R37). -/
theorem regView_of_ge (s : State) {index : BitVec 8} (h : 14 ≤ index.toNat) :
    regView s index =
      if 0x40 ≤ index.toNat ∧ index.toNat ≤ 0x7F then regGroup s (index.toNat - 0x40) else 0#32 := by
  obtain ⟨m, hm⟩ := Nat.exists_eq_add_of_le' h
  unfold regView
  rw [hm]
  rfl

theorem regView_group (s : State) {k : Nat} (hk : k < 64) : regView s (BitVec.ofNat 8 (0x40 + k)) = regGroup s k := by
  have hi : (BitVec.ofNat 8 (0x40 + k)).toNat = 0x40 + k := by
    rw [BitVec.toNat_ofNat]
    omega
  rw [regView_of_ge s (by omega), hi, if_pos (by omega), Nat.add_sub_cancel_left]

theorem regView_unassigned (s : State) {index : BitVec 8}
    (h : 0x0E ≤ index.toNat ∧ index.toNat ≤ 0x3F ∨ 0x80 ≤ index.toNat) : regView s index = 0#32 := by
  rw [regView_of_ge s (by omega), if_neg (by omega)]

/-! ### Fields of a register word -/

theorem bit_le_one (b : Bool) : bit b ≤ 1 := by cases b <;> decide

theorem bit_eq_one (b : Bool) : bit b = 1 ↔ b = true := by cases b <;> decide

/-- A bit of a word given as a sum is found by dividing. -/
theorem getLsbD_ofNat_eq {n i : Nat} {b : Bool} (hi : i < 32) (h : n / 2 ^ i % 2 = bit b) :
    (BitVec.ofNat 32 n).getLsbD i = b := by
  rw [BitVec.getLsbD_ofNat, Nat.testBit_eq_decide_div_mod_eq, h]
  simp [hi, bit_eq_one]

theorem toNat_append_eq_add {m n : Nat} (x : BitVec m) (y : BitVec n) :
    (x ++ y).toNat = x.toNat * 2 ^ n + y.toNat := by
  rw [BitVec.toNat_append, ← Nat.shiftLeft_add_eq_or_of_lt y.isLt, Nat.shiftLeft_eq]

/-! ### STATUS (R24) -/

/-- STATUS is the sum of R174, with PEND_FD masked by ACTIVE_VALID as a Bool. -/
theorem regStatus_eq (s : State) :
    regStatus s = BitVec.ofNat 32 (bit s.haveLast + 2 * bit s.activeValid + 4 * bit s.carryGap + 8 * s.carry.length +
      64 * bit s.ended + 128 * bit (s.activeValid && s.pendFd)) := by
  unfold regStatus
  cases s.activeValid <;> rfl

/-- Settles O22: with |CARRY| ≤ 5 no summand of STATUS reaches the next, so every field is a quotient of the sum. -/
theorem statusReadsTheFlags : Obligations.StatusReadsTheFlags := by
  unfold Obligations.StatusReadsTheFlags
  intro rsv ign s hcarry
  refine ⟨regStatus s, exec_read .., ?_⟩
  rw [regStatus_eq]
  have hlast := bit_le_one s.haveLast
  have hactive := bit_le_one s.activeValid
  have hgap := bit_le_one s.carryGap
  have hended := bit_le_one s.ended
  have hfd := bit_le_one (s.activeValid && s.pendFd)
  refine ⟨getLsbD_ofNat_eq (by decide) ?_, getLsbD_ofNat_eq (by decide) ?_, getLsbD_ofNat_eq (by decide) ?_, ?_,
    getLsbD_ofNat_eq (by decide) ?_, getLsbD_ofNat_eq (by decide) ?_, ?_⟩
  case refine_4 =>
    rw [BitVec.extractLsb'_toNat, BitVec.toNat_ofNat, Nat.shiftRight_eq_div_pow]
    omega
  case refine_7 =>
    rw [BitVec.toNat_ofNat]
    omega
  all_goals omega

/-! ### The active-packet registers (R34) -/

theorem whenActive_of_idle {s : State} (h : s.activeValid = false) (v : Word) : whenActive s v = 0#32 := by
  simp [whenActive, h]

theorem whenActive_of_active {s : State} (h : s.activeValid = true) (v : Word) : whenActive s v = v := by
  simp [whenActive, h]

/-- The fields of ACTIVE_ID, each at its place, and nothing above them (R34). -/
theorem regActiveId_fields {s : State} (h : s.activeValid = true) :
    (regActiveId s).extractLsb' 0 11 = s.pendApid ∧ (regActiveId s).extractLsb' 11 2 = s.pendSf ∧
    (regActiveId s).extractLsb' 13 3 = s.pendVer ∧ (regActiveId s).extractLsb' 16 1 = s.pendType ∧
    (regActiveId s).extractLsb' 17 1 = s.pendShf ∧ (regActiveId s).extractLsb' 18 14 = 0#14 := by
  rw [regActiveId, whenActive_of_active h]
  refine ⟨?_, ?_, ?_, ?_, ?_, ?_⟩ <;>
  · apply BitVec.eq_of_getLsbD_eq
    intro i hi
    simp only [BitVec.getLsbD_extractLsb', BitVec.getLsbD_setWidth, BitVec.getLsbD_append, BitVec.getLsbD_zero]
    grind

/-- Settles O23: each register is `whenActive` of a word, whose fields are read off the concatenation that makes it. -/
theorem activeRegistersReadTheSlot : Obligations.ActiveRegistersReadTheSlot := by
  unfold Obligations.ActiveRegistersReadTheSlot
  intro rsv ign s
  constructor
  · intro hidle index hindex
    have hzero : regView s index = 0#32 := by
      simp only [List.mem_cons, List.not_mem_nil, or_false] at hindex
      obtain rfl | rfl | rfl | rfl := hindex
      all_goals exact whenActive_of_idle hidle _
    rw [exec_read, hzero]
  · intro hactive
    have hseq : regView s 0x09#8 = s.pendCnt.setWidth 32 := whenActive_of_active hactive _
    have hlen : regView s 0x0A#8 = s.pendLen.setWidth 32 := whenActive_of_active hactive _
    have hrx : regView s 0x0B#8 = s.pendRx := whenActive_of_active hactive _
    refine ⟨⟨regActiveId s, exec_read .., regActiveId_fields hactive⟩, ⟨_, exec_read .., ?_⟩, ⟨_, exec_read .., ?_⟩, ?_⟩
    · rw [hseq, BitVec.toNat_setWidth_of_le (by decide)]
    · rw [hlen, BitVec.toNat_setWidth_of_le (by decide)]
    · rw [exec_read, hrx]

/-! ### CARRY (R35) -/

/-- Byte j of CARRY_W0, counted from the high end. -/
theorem regCarryW0_byte (s : State) {j : Nat} (hj : j < 4) :
    (regCarryW0 s).extractLsb' (24 - 8 * j) 8 = byteAt s.carry j := by
  apply BitVec.eq_of_getLsbD_eq
  intro i hi
  simp only [regCarryW0, BitVec.getLsbD_extractLsb', BitVec.getLsbD_append]
  interval_cases j <;> grind

theorem regCarryW1_fields (s : State) :
    (regCarryW1 s).extractLsb' 24 8 = byteAt s.carry 4 ∧ (regCarryW1 s).extractLsb' 0 24 = 0#24 := by
  constructor <;>
  · apply BitVec.eq_of_getLsbD_eq
    intro i hi
    simp only [regCarryW1, BitVec.getLsbD_extractLsb', BitVec.getLsbD_append, BitVec.getLsbD_zero]
    grind

/-- Settles O24: the registers' bytes are CARRY's, with `byteAt` 0 beyond |CARRY|. -/
theorem carryRegistersReadCarry : Obligations.CarryRegistersReadCarry := by
  unfold Obligations.CarryRegistersReadCarry
  intro rsv ign s
  obtain ⟨hbyte, hzero⟩ := regCarryW1_fields s
  exact ⟨regCarryW0 s, regCarryW1 s, exec_read .., exec_read .., fun _ hj => regCarryW0_byte s hj, hbyte, hzero⟩

/-! ### The group table (R36) -/

/-- Settles O25: bit i of Wk is bit 32k + i of the table, which has no bit 2047. -/
theorem groupRegistersReadTheTable : Obligations.GroupRegistersReadTheTable := by
  unfold Obligations.GroupRegistersReadTheTable
  intro rsv ign s k hk
  refine ⟨regGroup s k, by rw [exec_read, regView_group s hk], ?_⟩
  intro i hi
  have hbit : (regGroup s k).getLsbD i = s.groupOpen.getLsbD (32 * k + i) := by
    simp [regGroup, hi]
  rw [hbit]
  split
  · next hle =>
    rw [groupBit, BitVec.toNat_ofNat, Nat.mod_eq_of_lt (by omega)]
  · exact BitVec.getLsbD_of_ge _ _ (by omega)

/-! ### The other registers (R23, R25, R26, R32, R37) -/

theorem regCtrl_eq (s : State) : regCtrl s = if s.keepCorrupt then 1#32 else 0#32 := by
  unfold regCtrl bit
  split <;> rfl

theorem regLastFhid_eq (s : State) :
    regLastFhid s = BitVec.ofNat 32 (s.lastVer.toNat * 2 ^ 14 + s.lastScid.toNat * 2 ^ 8 + s.lastVcid.toNat) := by
  have hfields : (s.lastVer ++ s.lastScid ++ 0#2 ++ s.lastVcid).toNat =
      s.lastVer.toNat * 2 ^ 14 + s.lastScid.toNat * 2 ^ 8 + s.lastVcid.toNat := by
    simp only [toNat_append_eq_add, BitVec.toNat_ofNat]
    omega
  rw [← hfields, BitVec.ofNat_toNat, regLastFhid]

/-- Settles O26: each index by its row of R22's table, the rest by R37. -/
theorem otherRegistersReadTheirElements : Obligations.OtherRegistersReadTheirElements := by
  unfold Obligations.OtherRegistersReadTheirElements
  intro rsv ign s
  have hctrl : regView s 0x00#8 = if s.keepCorrupt then 1#32 else 0#32 := regCtrl_eq s
  have hctr : regView s 0x02#8 = BitVec.ofNat 32 s.lastCtr.toNat := (BitVec.ofNat_toNat 32 s.lastCtr).symm
  have hfhid : regView s 0x03#8 = _ := regLastFhid_eq s
  have hfhp : regView s 0x04#8 = BitVec.ofNat 32 s.lastFhp.toNat := (BitVec.ofNat_toNat 32 s.lastFhp).symm
  refine ⟨by rw [exec_read, hctrl], by rw [exec_read, hctr], by rw [exec_read, hfhid], by rw [exec_read, hfhp],
    exec_read .., exec_read .., exec_read .., ?_⟩
  intro index hindex
  rw [exec_read, regView_unassigned s hindex]

end Sys2Proof.Machine
end

section
/-! The statement of 20_memory.md: the read port appends its answer and has no other effect (R59, R174). -/

namespace Sys2Proof.Machine

/-- The table of R22 has no row for OUTQ: each row reads other elements, which `l` leaves as they are. -/
@[simp] theorem regView_outq (s : State) (l : List Record) (index : BitVec 8) :
    regView { s with outq := l } index = regView s index := rfl

/-- Settles O21: READ answers the register view, which is the same whatever OUTQ holds. -/
theorem readHasNoSideEffect : Obligations.ReadHasNoSideEffect := by
  unfold Obligations.ReadHasNoSideEffect
  intro rsv index ign s
  refine ⟨regView s index, exec_read .., ?_⟩
  intro l
  rw [exec_read, regView_outq]

end Sys2Proof.Machine
end

section
/-! The statements of 30_encoding.md. Decoding undoes encoding, format by format; the opcode table says what each command
word selects; and the bits of a word that no rule reads have no effect, as the channel fields have none beyond LAST_FHID. -/

namespace Sys2Proof

/-! ### Command words (R67, R68, R69) -/

/-- What each OP selects (R67, R68), with its operands read from RSV, ARG and the data operand. -/
abbrev opcodeTable (rsv : BitVec 4) (arg : BitVec 24) (f : Bytes) : List (Nat × Instr) :=
  [(0x0, .illegal0 rsv arg), (0x1, .frame rsv arg f), (0x2, .tail rsv arg), (0x3, .eos rsv arg),
    (0x4, .cfg rsv (arg.extractLsb' 0 1) (arg.extractLsb' 1 23)),
    (0x5, .read rsv (arg.extractLsb' 0 8) (arg.extractLsb' 8 16)), (0x6, .illegal6 rsv arg), (0x7, .illegal7 rsv arg),
    (0x8, .illegal8 rsv arg), (0x9, .illegal9 rsv arg), (0xA, .illegalA rsv arg), (0xB, .illegalB rsv arg),
    (0xC, .illegalC rsv arg), (0xD, .illegalD rsv arg), (0xE, .illegalE rsv arg), (0xF, .reset rsv arg)]

/-- The decoder reads the opcode table: a row with the number of OP is what the word decodes to. -/
theorem decodeOp_of_mem_opcodeTable {op rsv : BitVec 4} {arg : BitVec 24} {f : Bytes} {i : Instr}
    (h : (op.toNat, i) ∈ opcodeTable rsv arg f) : decodeOp (commandWord op rsv arg) f = i := by
  have hbit : (commandWord op rsv arg).extractLsb' 8 1 = arg.extractLsb' 0 1 := extract_arg op rsv arg 0 1
  have hign : (commandWord op rsv arg).extractLsb' 9 23 = arg.extractLsb' 1 23 := extract_arg op rsv arg 1 23
  have hindex : (commandWord op rsv arg).extractLsb' 8 8 = arg.extractLsb' 0 8 := extract_arg op rsv arg 0 8
  have hhigh : (commandWord op rsv arg).extractLsb' 16 16 = arg.extractLsb' 8 16 := extract_arg op rsv arg 8 16
  simp only [opcodeTable, List.mem_cons, List.not_mem_nil, or_false, Prod.mk.injEq] at h
  unfold decodeOp
  rw [opOf_commandWord, rsvOf_commandWord, argOf_commandWord, hbit, hign, hindex, hhigh]
  obtain ⟨hop, rfl⟩ | ⟨hop, rfl⟩ | ⟨hop, rfl⟩ | ⟨hop, rfl⟩ | ⟨hop, rfl⟩ | ⟨hop, rfl⟩ | ⟨hop, rfl⟩ | ⟨hop, rfl⟩ |
    ⟨hop, rfl⟩ | ⟨hop, rfl⟩ | ⟨hop, rfl⟩ | ⟨hop, rfl⟩ | ⟨hop, rfl⟩ | ⟨hop, rfl⟩ | ⟨hop, rfl⟩ | ⟨hop, rfl⟩ := h
  all_goals
    rw [hop]
    rfl

theorem operandLength_commandWord (n : Nat) (op rsv : BitVec 4) (arg : BitVec 24) :
    operandLength n (commandWord op rsv arg) = if op = 0x1#4 then n else 0 := by
  rw [operandLength, opOf_commandWord]

/-- A command word with the operand its OP carries decodes to its row of the opcode table. -/
theorem decode_commandWord {n : Nat} {op rsv : BitVec 4} {arg : BitVec 24} {f : Bytes} {i : Instr}
    (hlen : f.length = if op = 0x1#4 then n else 0) (hrow : (op.toNat, i) ∈ opcodeTable rsv arg f) :
    decode n (.command (commandWord op rsv arg) f) = .ok i :=
  decodeCommand_ok_iff.mpr ⟨hlen.trans (operandLength_commandWord n op rsv arg).symm, decodeOp_of_mem_opcodeTable hrow⟩

/-- Every OP has a row: the 4-bit values are the table's 16 numbers. -/
theorem exists_mem_opcodeTable (op rsv : BitVec 4) (arg : BitVec 24) (f : Bytes) :
    ∃ i, (op.toNat, i) ∈ opcodeTable rsv arg f := by
  have hlt : op.toNat < 16 := op.isLt
  have hkeys : op.toNat ∈ (opcodeTable rsv arg f).map Prod.fst := by
    simp only [List.map_cons, List.map_nil, List.mem_cons, List.not_mem_nil, or_false]
    omega
  obtain ⟨⟨k, i⟩, hmem, rfl⟩ := List.mem_map.mp hkeys
  exact ⟨i, hmem⟩

/-- Settles O4: OP has a row of the opcode table, and the decoder answers that row. -/
theorem everyCommandWordDecodesByOp : Obligations.EveryCommandWordDecodesByOp := by
  unfold Obligations.EveryCommandWordDecodesByOp
  intro frameSize op rsv arg f hlen
  obtain ⟨i, hrow⟩ := exists_mem_opcodeTable op rsv arg f
  exact ⟨i, decode_commandWord hlen hrow, hrow⟩

/-- A FRAME word with an operand of another length is refused by name (R69, R111). -/
theorem decode_frame_of_length_ne {n : Nat} (rsv : BitVec 4) (arg : BitVec 24) {f : Bytes} (hlen : f.length ≠ n) :
    decode n (.command (commandWord 0x1#4 rsv arg) f) = .error .frameOperandLength := by
  have hop : operandLength n (commandWord 0x1#4 rsv arg) = n := operandLength_commandWord n 0x1#4 rsv arg
  simp [decode, decodeCommand, hop, hlen, opOf_commandWord]

/-! ### Wire words (R73, R77, R80, R85) -/

theorem decode_frameHeaderBytes (n : Nat) (version : BitVec 2) (scid : BitVec 6) (unused1 : BitVec 2) (vcid : BitVec 6)
    (ctr : BitVec 24) (unused5 : BitVec 8) :
    decode n (.tfh (frameHeaderBytes version scid unused1 vcid ctr unused5)) =
      .ok (.frameHeader version scid unused1 vcid ctr unused5) := by
  have hbyte1 : byteAt (frameHeaderBytes version scid unused1 vcid ctr unused5) 1 = unused1 ++ vcid := rfl
  have hbyte5 : byteAt (frameHeaderBytes version scid unused1 vcid ctr unused5) 5 = unused5 := rfl
  have hlen : (frameHeaderBytes version scid unused1 vcid ctr unused5).length = 6 := rfl
  simp only [decode, decodeTfh, hlen, if_true, decodeFrameHeader_frameHeaderBytes, hbyte1, hbyte5,
    BitVec.extractLsb'_append_eq_left]

/-- An M-PDU word with a whole packet zone: FHP alone decides the row (R77, R79). -/
theorem decode_mpduWord {n : Nat} (spare : BitVec 5) (fhp : BitVec 11) {zone : Bytes}
    (hlen : zone.length = Config.zone n) :
    decode n (.mpdu (bytes16 (spare ++ fhp) ++ zone)) =
      if fhp = Config.fhpNohdr then .ok (.mpduNohdr spare zone) else .ok (.mpduPtr spare fhp zone) := by
  have hbytes : (bytes16 (spare ++ fhp) ++ zone).length = Config.zone n + 2 := congrArg (· + 2) hlen
  have hzone : (bytes16 (spare ++ fhp) ++ zone).drop 2 = zone := rfl
  simp only [decode, decodeMpdu, hbytes, if_true, be16_bytes16, fhpOfWord_append, spareOfWord_append, hzone]

/-- A packet header and a rest that fits decode to the instruction of the header's class (R85, R127). -/
theorem decode_headerBytes {n : Nat} (h : PacketHeader) {rest : Bytes} (hfits : RestFits n rest) :
    decode n (.packet (headerBytes h ++ rest)) = .ok (decodePh h rest) := by
  have hlen : (headerBytes h ++ rest).length = rest.length + 6 := rfl
  have hrest : (headerBytes h ++ rest).drop 6 = rest := rfl
  have hrange : 6 ≤ rest.length + 6 ∧ rest.length + 6 ≤ Config.zone n + 5 := ⟨Nat.le_add_left 6 _, hfits⟩
  simp only [decode, decodePacket, hlen, hrange, and_self, if_true, parseHeader_headerBytes, hrest]

/-- The class of a header that is no fill header is its SF (R82, R85). -/
theorem classOf_of_ne_fill {h : PacketHeader} (hapid : h.apid ≠ Config.apidFill) :
    classOf h = if h.sf = 0#2 then .cont else if h.sf = 1#2 then .first else if h.sf = 2#2 then .last else .standalone :=
  if_neg hapid

/-- Settles O1: the rows of each format by the rule of that format; a packet row also needs its class, which is fill's by
APID and the others' by SF. -/
theorem decodeOfEncodeIsTheInstruction : Obligations.DecodeOfEncodeIsTheInstruction := by
  unfold Obligations.DecodeOfEncodeIsTheInstruction
  intro n i hwf
  cases i with
  | frame rsv arg f => exact decode_commandWord hwf (by simp)
  | cfg rsv keep ign =>
    have hkeep : (ign ++ keep : BitVec 24).extractLsb' 0 1 = keep := BitVec.extractLsb'_append_eq_right
    have hign : (ign ++ keep : BitVec 24).extractLsb' 1 23 = ign := BitVec.extractLsb'_append_eq_left
    exact decode_commandWord rfl (by simp [hkeep, hign])
  | read rsv index ign =>
    have hindex : (ign ++ index : BitVec 24).extractLsb' 0 8 = index := BitVec.extractLsb'_append_eq_right
    have hign : (ign ++ index : BitVec 24).extractLsb' 8 16 = ign := BitVec.extractLsb'_append_eq_left
    exact decode_commandWord rfl (by simp [hindex, hign])
  | tail | eos | reset | illegal0 | illegal6 | illegal7 | illegal8 | illegal9 | illegalA | illegalB | illegalC
  | illegalD | illegalE => exact decode_commandWord rfl (by simp)
  | frameHeader version scid unused1 vcid ctr unused5 =>
    exact decode_frameHeaderBytes n version scid unused1 vcid ctr unused5
  | mpduNohdr spare zone => exact decode_mpduWord spare Config.fhpNohdr hwf
  | mpduPtr spare fhp zone =>
    obtain ⟨hfhp, hzone⟩ := hwf
    exact (decode_mpduWord spare fhp hzone).trans (if_neg hfhp)
  | phFill ver type shf sf cnt lenField rest => exact decode_headerBytes _ hwf
  | phCont ver type shf apid cnt lenField rest | phFirst ver type shf apid cnt lenField rest
  | phLast ver type shf apid cnt lenField rest | phStandalone ver type shf apid cnt lenField rest =>
    obtain ⟨hapid, hfits⟩ := hwf
    rw [encode, decode_headerBytes _ hfits, decodePh, classOf_of_ne_fill hapid]
    rfl

end Sys2Proof

namespace Sys2Proof.Machine

/-! ### The malformed FRAME (R69, R111) -/

/-- A step on a transfer the decoder refuses is refused for the decoder's reason. -/
theorem step_refused {s : State} {c : Command} {later : List Command} {why : DecodeError} (hport : s.port = c :: later)
    (hdec : decode s.frameSize c.encoded = .error why) : step s = .refused (.malformedTransfer why) := by
  simp [step, hport, hdec]

/-- Settles O5: the two sides of the length test are the two outcomes of the decoder. -/
theorem frameOfAnotherLengthIsRefused : Obligations.FrameOfAnotherLengthIsRefused := by
  unfold Obligations.FrameOfAnotherLengthIsRefused
  intro s rsv arg f later hport
  constructor
  · intro hlen
    exact step_refused hport (decode_frame_of_length_ne rsv arg hlen)
  · intro hlen
    exact step_decoded hport (decode_commandWord hlen (by simp))

/-! ### Reserved and ignored command bits (R87) -/

/-- A legal TAIL does its work, in which RSV does not occur (R104). -/
theorem exec_tail_of_legal {rsv : BitVec 4} {n : BitVec 24} {s : State} (hpos : 1 ≤ n.toNat) (hlt : n.toNat < s.frameSize) :
    exec (.tail rsv n) s =
      .next (unlessEnded 0x2#4 (fun s => endOfStream (raiseEvent (.truncatedTail n) s)) s) := by
  have harm : exec (.tail rsv n) s = execTail rsv n s := rfl
  have hlegal : ¬ (n = 0#24 ∨ s.frameSize ≤ n.toNat) := by
    rintro (rfl | hle)
    · exact absurd hpos (by decide)
    · omega
  rw [harm, execTail, if_neg hlegal]

/-- Settles O20: the meanings do not name the ignored operands; TAIL names RSV only where n is illegal. -/
theorem ignoredCommandBitsHaveNoEffect : Obligations.IgnoredCommandBitsHaveNoEffect := by
  unfold Obligations.IgnoredCommandBitsHaveNoEffect
  intro rsv rsv' arg arg' f keep k k' index j j' n s
  refine ⟨rfl, rfl, rfl, rfl, rfl, ?_⟩
  intro hpos hlt
  rw [exec_tail_of_legal hpos hlt, exec_tail_of_legal hpos hlt]

/-! ### The unread bits of a frame (R75, R77, R88) -/

theorem exec_frame (rsv : BitVec 4) (arg : BitVec 24) (f : Bytes) (s : State) :
    exec (.frame rsv arg f) s = .next (unlessEnded 0x1#4 (acceptFrame f) s) := rfl

/-- FHP is the three low bits of byte 6 and all of byte 7 (R77). -/
theorem fhpOfWord_bytes (a b : Byte) : fhpOfWord (a ++ b) = a.extractLsb' 0 3 ++ b := by
  apply BitVec.eq_of_getLsbD_eq
  intro k hk
  simp only [fhpOfWord, BitVec.getLsbD_extractLsb', BitVec.getLsbD_append]
  grind

/-- A slice reads no byte below its lower end. -/
theorem slice_congr {f g : Bytes} {lo hi : Nat} (hlen : f.length = g.length)
    (hbytes : ∀ k, lo ≤ k → byteAt f k = byteAt g k) : slice f lo hi = slice g lo hi := by
  apply List.ext_getElem
  · rw [length_slice, length_slice, hlen]
  · intro k hf hg
    have hk := hbytes (lo + k) (Nat.le_add_right lo k)
    rw [length_slice] at hf hg
    have hkf : lo + k < f.length := by omega
    have hkg : lo + k < g.length := by omega
    simpa [slice, byteAt, hkf, hkg] using hk

/-- FRAME reads its operand by the header's fields, FHP and the packet zone, and in no other way (R94). -/
theorem acceptFrame_congr {f g : Bytes} {s : State} (hheader : decodeFrameHeader f = decodeFrameHeader g)
    (hfhp : fhpDecode f = fhpDecode g) (hzone : zoneOf s.frameSize f = zoneOf s.frameSize g) :
    acceptFrame f s = acceptFrame g s := by
  rw [acceptFrame, acceptFrame, hheader, hfhp, hzone]

theorem unlessEnded_congr {op : BitVec 4} {work work' : State → State} {s : State} (h : work s = work' s) :
    unlessEnded op work s = unlessEnded op work' s := by
  rw [unlessEnded, unlessEnded, h]

/-- Settles O35: the frame header, FHP and the zone are made of the bits the two operands share. -/
theorem unreadFrameBitsHaveNoEffect : Obligations.UnreadFrameBitsHaveNoEffect := by
  unfold Obligations.UnreadFrameBitsHaveNoEffect
  intro rsv arg f f' s hlen hbytes hvcid hfhp
  have hheader : decodeFrameHeader f = decodeFrameHeader f' := by
    simp only [decodeFrameHeader, be24]
    rw [hvcid, hbytes 0 (by decide) (by decide) (by decide), hbytes 2 (by decide) (by decide) (by decide),
      hbytes (2 + 1) (by decide) (by decide) (by decide), hbytes (2 + 2) (by decide) (by decide) (by decide)]
  have hptr : fhpDecode f = fhpDecode f' := by
    rw [fhpDecode, fhpDecode, be16, be16, fhpOfWord_bytes, fhpOfWord_bytes, hfhp,
      hbytes (6 + 1) (by decide) (by decide) (by decide)]
  have hzone : zoneOf s.frameSize f = zoneOf s.frameSize f' :=
    slice_congr hlen fun k hk => hbytes k (by omega) (by omega) (by omega)
  rw [exec_frame, exec_frame, unlessEnded_congr (acceptFrame_congr hheader hptr hzone)]

/-! ### The channel fields (R76, R109)

Nothing after the header stage reads LAST_VER, LAST_SCID or LAST_VCID, so recording them commutes with every operation of
the M-PDU stage. -/

section
variable (version : BitVec 2) (scid vcid : BitVec 6) (s : State)

@[simp] theorem setCarry_recordHeader (b : Bytes) (g : Bool) :
    setCarry b g (recordHeader version scid vcid s) = recordHeader version scid vcid (setCarry b g s) := rfl

@[simp] theorem flush_recordHeader (p : Packet) :
    flush p (recordHeader version scid vcid s) = recordHeader version scid vcid (flush p s) := by
  rw [flush_eq_absorb, flush_eq_absorb]
  rfl

@[simp] theorem flushSlot_recordHeader :
    flushSlot (recordHeader version scid vcid s) = recordHeader version scid vcid (flushSlot s) :=
  flush_recordHeader version scid vcid (releaseSlot s) (slotPacket s)

@[simp] theorem flushOpt_recordHeader (p : Option Packet) :
    flushOpt p (recordHeader version scid vcid s) = recordHeader version scid vcid (flushOpt p s) := by
  cases p with
  | none => rfl
  | some p => exact flush_recordHeader version scid vcid s p

@[simp] theorem makeActiveOpt_recordHeader (p : Option Packet) :
    makeActiveOpt p (recordHeader version scid vcid s) = recordHeader version scid vcid (makeActiveOpt p s) := by
  cases p <;> rfl

@[simp] theorem segmentAccept_recordHeader (h : PacketHeader) (rest : Bytes) (fd : Bool) :
    segmentAccept h rest fd (recordHeader version scid vcid s) =
      ((segmentAccept h rest fd s).1, recordHeader version scid vcid (segmentAccept h rest fd s).2) := by
  unfold segmentAccept
  rw [recordHeader_groupOpen]
  cases classOf h with
  | fill | first | standalone => rfl
  | cont | last => dsimp only; split <;> rfl

@[simp] theorem parse_recordHeader (buf : Bytes) (g : Bool) :
    parse buf g (recordHeader version scid vcid s) = recordHeader version scid vcid (parse buf g s) := by
  refine parse_induction (P := fun buf g s t =>
    parse buf g (recordHeader version scid vcid s) = recordHeader version scid vcid t) ?_ ?_ ?_ buf g s
  case refine_1 =>
    intro buf g s hshort
    rw [parse_short _ _ _ hshort, setCarry_recordHeader]
  case refine_2 =>
    intro buf g s hlen hstop
    rw [parse_stop _ _ _ hlen hstop, segmentAccept_recordHeader, makeActiveOpt_recordHeader, setCarry_recordHeader]
  case refine_3 =>
    intro buf g s t hlen hnext ih
    rw [parse_next _ _ _ hlen hnext, segmentAccept_recordHeader, flushOpt_recordHeader, ih]

@[simp] theorem resolveCarry_recordHeader (head : Bytes) :
    resolveCarry head (recordHeader version scid vcid s) = recordHeader version scid vcid (resolveCarry head s) := by
  unfold resolveCarry
  simp only [recordHeader_carry, recordHeader_carryGap, recordHeader_activeValid, setCarry_recordHeader,
    parse_recordHeader]
  split
  · exact flushSlot_recordHeader version scid vcid _
  · split <;> rfl

@[simp] theorem closeHead_recordHeader (head : Bytes) :
    closeHead head (recordHeader version scid vcid s) = recordHeader version scid vcid (closeHead head s) := by
  unfold closeHead
  rw [recordHeader_activeValid, recordHeader_carry]
  split
  · exact resolveCarry_recordHeader version scid vcid s head
  · split
    · exact flushSlot_recordHeader version scid vcid (appendPend head s)
    · unfold discardHead
      split <;> rfl

@[simp] theorem checkFhp_recordHeader (fhp : BitVec 11) :
    checkFhp fhp (recordHeader version scid vcid s) = recordHeader version scid vcid (checkFhp fhp s) := by
  unfold checkFhp
  rw [recordHeader_frameSize]
  split <;> rfl

@[simp] theorem demuxNoHdr_recordHeader (z : Bytes) :
    demuxNoHdr z (recordHeader version scid vcid s) = recordHeader version scid vcid (demuxNoHdr z s) := by
  unfold demuxNoHdr
  rw [recordHeader_activeValid]
  split
  · rfl
  · exact parse_recordHeader version scid vcid (setCarry [] false s) (s.carry ++ z) s.carryGap

@[simp] theorem demuxPtr_recordHeader (fhp : BitVec 11) (z : Bytes) :
    demuxPtr fhp z (recordHeader version scid vcid s) = recordHeader version scid vcid (demuxPtr fhp z s) := by
  rw [demuxPtr, recordHeader_frameSize, checkFhp_recordHeader, closeHead_recordHeader, parse_recordHeader, demuxPtr]

@[simp] theorem demux_recordHeader (fhp : BitVec 11) (z : Bytes) :
    demux fhp z (recordHeader version scid vcid s) = recordHeader version scid vcid (demux fhp z s) := by
  unfold demux
  split
  · exact demuxNoHdr_recordHeader version scid vcid s z
  · exact demuxPtr_recordHeader version scid vcid s fhp z

@[simp] theorem mpduStage_recordHeader (fhp : BitVec 11) (z : Bytes) :
    mpduStage fhp z (recordHeader version scid vcid s) = recordHeader version scid vcid (mpduStage fhp z s) :=
  demux_recordHeader version scid vcid (recordFhp fhp s) fhp z

end

/-- An accepted frame is its counter check and its M-PDU stage, with the channel fields recorded last. -/
theorem acceptFrame_eq_recordHeader (f : Bytes) (s : State) :
    acceptFrame f s = recordHeader (decodeFrameHeader f).version (decodeFrameHeader f).scid (decodeFrameHeader f).vcid
      (mpduStage (fhpDecode f) (zoneOf s.frameSize f) (counterCheck (decodeFrameHeader f).ctr s)) := by
  rw [acceptFrame, headerStage, mpduStage_recordHeader]

/-- The packet zone does not hold bytes 0 and 1. -/
theorem zoneOf_cons_cons (n : Nat) (a b : Byte) (f : Bytes) : zoneOf n (a :: b :: f) = slice f 6 (n - 2) := by
  simp only [zoneOf, slice, List.drop_take, List.drop_succ_cons, Nat.sub_sub]

theorem exec_frame_of_open {rsv : BitVec 4} {arg : BitVec 24} {f : Bytes} {s : State} (h : s.ended = false) :
    exec (.frame rsv arg f) s = .next (acceptFrame f s) := by
  simp [exec_frame, unlessEnded, h]

/-- Settles O36: the counter check and the M-PDU stage read the bytes after the first two only, and the channel fields
are recorded over what they leave. -/
theorem channelFieldsReachOnlyLastFhid : Obligations.ChannelFieldsReachOnlyLastFhid := by
  unfold Obligations.ChannelFieldsReachOnlyLastFhid
  intro rsv arg a b a' b' f s hopen
  refine ⟨acceptFrame (a :: b :: f) s, exec_frame_of_open hopen, ?_⟩
  rw [exec_frame_of_open hopen, acceptFrame_eq_recordHeader, acceptFrame_eq_recordHeader, zoneOf_cons_cons,
    zoneOf_cons_cons]
  rfl

end Sys2Proof.Machine
end

section
/-! The statements of 40_frame_reader.md: a frame is its header word and then its M-PDU word, the counter check says what
the header word does, the counters count the records, and the end of the stream reports and leaves nothing. -/

namespace Sys2Proof

/-! ### The bytes of a frame's parts (R73, R77) -/

theorem byteAt_take {b : Bytes} {n k : Nat} (h : k < n) : byteAt (b.take n) k = byteAt b k := by
  simp [byteAt, List.getElem?_take_of_lt h]

theorem byteAt_drop (b : Bytes) (n k : Nat) : byteAt (b.drop n) k = byteAt b (n + k) := by
  simp [byteAt]

/-- The header's fields stand in the first 6 bytes (R73). -/
theorem decodeFrameHeader_take (f : Bytes) : decodeFrameHeader (f.take 6) = decodeFrameHeader f := by
  simp [decodeFrameHeader, be24, byteAt_take]

/-- FHP stands in the M-PDU word after the 6 header bytes (R73, R77). -/
theorem fhpOfWord_drop (f : Bytes) : fhpOfWord (be16 (f.drop 6) 0) = fhpDecode f := by
  simp [fhpDecode, be16, byteAt_drop]

theorem fhpDecode_toNat (f : Bytes) : (fhpDecode f).toNat = (be16 f 6).toNat % 2048 := by
  simp [fhpDecode, fhpOfWord]

end Sys2Proof

namespace Sys2Proof.Machine

/-! ### The instructions of the wire words (log 2) -/

theorem unlessEnded_of_open {op : BitVec 4} {work : State → State} {s : State} (h : s.ended = false) :
    unlessEnded op work s = work s := by
  simp [unlessEnded, h]

theorem unlessEnded_of_ended {op : BitVec 4} {work : State → State} {s : State} (h : s.ended = true) :
    unlessEnded op work s = raiseEvent (.cmdAfterEnd op) s := by
  simp [unlessEnded, h]

/-- The instruction of 6 header bytes is the header stage of their fields (R74, R95). -/
theorem exec_of_decode_tfh {n : Nat} {b : Bytes} {i : Instr} (h : decode n (.tfh b) = .ok i) (s : State) :
    exec i s = .next (unlessEnded 0x1#4 (headerStage (decodeFrameHeader b)) s) := by
  rw [decode, decodeTfh] at h
  split at h
  · cases h
    rfl
  · cases h

/-- The instruction of an M-PDU word and its zone is the M-PDU stage, whichever row FHP selects (R77, R79). -/
theorem exec_of_decode_mpdu {n : Nat} {b : Bytes} {i : Instr} (h : decode n (.mpdu b) = .ok i) (s : State) :
    exec i s = .next (unlessEnded 0x1#4 (mpduStage (fhpOfWord (be16 b 0)) (b.drop 2)) s) := by
  rw [decode, decodeMpdu] at h
  split at h
  · split at h
    · next hfhp =>
      cases h
      rw [hfhp]
      rfl
    · cases h
      rfl
  · cases h

/-- The instruction of a packet header and its rest is the packet stage, whichever class the header has (R85). -/
theorem exec_of_decode_packet {n : Nat} {b : Bytes} {i : Instr} (h : decode n (.packet b) = .ok i) (s : State) :
    exec i s = .next (unlessEnded 0x1#4 (packetStage (parseHeader b) (b.drop 6)) s) := by
  rw [decode, decodePacket] at h
  split at h
  · cases h
    exact exec_decodePh _ _ s
  · cases h

/-- Settles O15: whatever its stage, the word's instruction is turned away. -/
theorem wireWordsAfterEndChangeNothing : Obligations.WireWordsAfterEndChangeNothing := by
  unfold Obligations.WireWordsAfterEndChangeNothing
  intro s b i hended hdec
  obtain htfh | hmpdu | hpacket := hdec
  · rw [exec_of_decode_tfh htfh, unlessEnded_of_ended hended]
    rfl
  · rw [exec_of_decode_mpdu hmpdu, unlessEnded_of_ended hended]
    rfl
  · rw [exec_of_decode_packet hpacket, unlessEnded_of_ended hended]
    rfl

/-! ### The counter check (R96 to R102) -/

/-- The counter event of a frame with the counter `ctr`, if there is one (R96 to R99, R102). -/
def counterRecords (ctr : BitVec 24) (s : State) : List Record :=
  if s.haveLast then
    match ctrVerdict s.lastCtr ctr with
    | .inSequence => []
    | .gap => [.evt (.frameSequenceGap (missingFrames s.lastCtr ctr) s.lastCtr ctr)]
    | .anomaly => [.evt (.counterAnomaly s.lastCtr ctr (ctrDelta s.lastCtr ctr))]
  else []

theorem degrade_eq (s : State) :
    degrade s = { s with
      pendFd := s.pendFd || s.activeValid, carryGap := s.carryGap || decide (s.carry ≠ []) } := by
  unfold degrade
  cases s.activeValid <;> cases s.carry <;> simp

/-- Everything the header stage does: the registers are new; the counter event is appended and CNT_DROPPED grows by what
it reports; Degrade runs when there is one. -/
theorem headerStage_eq (h : FrameHeader) (s : State) :
    headerStage h s = { s with
      haveLast := true, lastCtr := h.ctr, lastVer := h.version, lastScid := h.scid, lastVcid := h.vcid
      outq := s.outq ++ counterRecords h.ctr s
      cntDropped := satAdd s.cntDropped (total droppedBy (counterRecords h.ctr s))
      pendFd := s.pendFd || (s.activeValid && !(counterRecords h.ctr s).isEmpty)
      carryGap := s.carryGap || (decide (s.carry ≠ []) && !(counterRecords h.ctr s).isEmpty) } := by
  unfold headerStage counterCheck compareCtr counterRecords
  split
  · cases ctrVerdict s.lastCtr h.ctr with
    | inSequence => simp [recordHeader, recordCtr]
    | gap =>
      simp [recordHeader, recordCtr, forwardGap, degrade_eq, raiseEvent, emit, addDropped, droppedBy]
    | anomaly => simp [recordHeader, recordCtr, ctrAnomaly, degrade_eq, raiseEvent, emit, droppedBy]
  · simp [recordHeader, recordCtr]

theorem headerStage_ended (h : FrameHeader) (s : State) : (headerStage h s).ended = s.ended := by
  rw [headerStage_eq]

/-- The header's delta is 1 exactly when its counter is the next one modulo 2^24 (R96, R98). -/
theorem ctrVerdict_inSequence_iff (last ctr : BitVec 24) :
    ctrVerdict last ctr = .inSequence ↔ (last.toNat + 1) % 2 ^ 24 = ctr.toNat := by
  rw [ctrVerdict_inSequence]
  bv_omega

theorem counterRecords_first {ctr : BitVec 24} {s : State} (h : s.haveLast = false) : counterRecords ctr s = [] := by
  simp [counterRecords, h]

theorem counterRecords_inSequence {ctr : BitVec 24} {s : State} (h : (s.lastCtr.toNat + 1) % 2 ^ 24 = ctr.toNat) :
    counterRecords ctr s = [] := by
  simp [counterRecords, (ctrVerdict_inSequence_iff _ _).mpr h]

theorem counterRecords_gap {ctr : BitVec 24} {s : State} (hlast : s.haveLast = true)
    (h : s.lastCtr.toNat + 1 < ctr.toNat) :
    counterRecords ctr s =
      [.evt (.frameSequenceGap (BitVec.ofNat 24 (ctr.toNat - s.lastCtr.toNat - 1)) s.lastCtr ctr)] := by
  rw [← missingFrames_toNat _ _ h, BitVec.ofNat_toNat, BitVec.setWidth_eq]
  simp [counterRecords, hlast, (ctrVerdict_gap _ _).mpr h]

theorem counterRecords_anomaly {ctr : BitVec 24} {s : State} (hlast : s.haveLast = true)
    (hle : ctr.toNat ≤ s.lastCtr.toNat) (hwrap : ¬ (s.lastCtr = 0xFFFFFF#24 ∧ ctr = 0#24)) :
    counterRecords ctr s =
      [.evt (.counterAnomaly s.lastCtr ctr (BitVec.ofNat 24 (2 ^ 24 + ctr.toNat - s.lastCtr.toNat)))] := by
  have hverdict : ctrVerdict s.lastCtr ctr = .anomaly := by
    rw [ctrVerdict_anomaly]
    refine ⟨hle, ?_⟩
    bv_omega
  have hdelta : ctrDelta s.lastCtr ctr = BitVec.ofNat 24 (2 ^ 24 + ctr.toNat - s.lastCtr.toNat) := by
    unfold ctrDelta
    bv_omega
  simp [counterRecords, hlast, hverdict, hdelta]

/-- There are no records, or one counter event, which reports frames only in a forward gap. -/
theorem counterRecords_cases (ctr : BitVec 24) (s : State) :
    (counterRecords ctr s = [] ∧ ¬ (s.haveLast = true ∧ (s.lastCtr.toNat + 1) % 2 ^ 24 ≠ ctr.toNat)) ∨
    (counterRecords ctr s =
        [.evt (.frameSequenceGap (BitVec.ofNat 24 (ctr.toNat - s.lastCtr.toNat - 1)) s.lastCtr ctr)] ∧
      s.haveLast = true ∧ s.lastCtr.toNat + 1 < ctr.toNat) ∨
    (counterRecords ctr s =
        [.evt (.counterAnomaly s.lastCtr ctr (BitVec.ofNat 24 (2 ^ 24 + ctr.toNat - s.lastCtr.toNat)))] ∧
      s.haveLast = true ∧ ctr.toNat ≤ s.lastCtr.toNat ∧ (s.lastCtr.toNat + 1) % 2 ^ 24 ≠ ctr.toNat) := by
  cases hlast : s.haveLast with
  | false => exact .inl ⟨counterRecords_first hlast, by simp⟩
  | true =>
    by_cases hseq : (s.lastCtr.toNat + 1) % 2 ^ 24 = ctr.toNat
    · exact .inl ⟨counterRecords_inSequence hseq, fun hne => hne.2 hseq⟩
    · by_cases hgap : s.lastCtr.toNat + 1 < ctr.toNat
      · exact .inr (.inl ⟨counterRecords_gap hlast hgap, rfl, hgap⟩)
      · have hle : ctr.toNat ≤ s.lastCtr.toNat := by
          have := ctr.isLt
          omega
        have hwrap : ¬ (s.lastCtr = 0xFFFFFF#24 ∧ ctr = 0#24) := by
          rintro ⟨hl, rfl⟩
          rw [hl] at hseq
          exact hseq rfl
        exact .inr (.inr ⟨counterRecords_anomaly hlast hle hwrap, rfl, hle, hseq⟩)

theorem length_counterRecords_le (ctr : BitVec 24) (s : State) : (counterRecords ctr s).length ≤ 1 := by
  obtain ⟨h, -⟩ | ⟨h, -⟩ | ⟨h, -⟩ := counterRecords_cases ctr s <;> simp [h]

theorem isCtrEvent_of_mem_counterRecords {ctr : BitVec 24} {s : State} :
    ∀ r ∈ counterRecords ctr s, isCtrEvent r = true := by
  obtain ⟨h, -⟩ | ⟨h, -⟩ | ⟨h, -⟩ := counterRecords_cases ctr s <;> simp [h, isCtrEvent]

/-- The counter is reported exactly when it is not the expected one (R96, R102). -/
theorem counterRecords_ne_nil_iff (ctr : BitVec 24) (s : State) :
    counterRecords ctr s ≠ [] ↔ s.haveLast = true ∧ (s.lastCtr.toNat + 1) % 2 ^ 24 ≠ ctr.toNat := by
  obtain ⟨h, hnone⟩ | ⟨h, hlast, hgap⟩ | ⟨h, hlast, -, hne⟩ := counterRecords_cases ctr s
  · exact ⟨fun hne => absurd h hne, fun hex => absurd hex hnone⟩
  · refine ⟨fun _ => ⟨hlast, ?_⟩, fun _ => by simp [h]⟩
    omega
  · exact ⟨fun _ => ⟨hlast, hne⟩, fun _ => by simp [h]⟩

/-- A counter event counts in neither Sink counter. -/
theorem total_sink_counterRecords (ctr : BitVec 24) (s : State) :
    total savedBy (counterRecords ctr s) = 0 ∧ total failedBy (counterRecords ctr s) = 0 := by
  obtain ⟨h, -⟩ | ⟨h, -⟩ | ⟨h, -⟩ := counterRecords_cases ctr s <;> simp [h, savedBy, failedBy]

/-- The frames a counter event reports are those of a forward gap (R97, R103). -/
theorem satAdd_dropped_counterRecords (n : BitVec 32) (ctr : BitVec 24) (s : State) :
    satAdd n (total droppedBy (counterRecords ctr s)) =
      if s.haveLast = true ∧ s.lastCtr.toNat + 1 < ctr.toNat then satAdd n (ctr.toNat - s.lastCtr.toNat - 1) else n := by
  obtain ⟨h, hnone⟩ | ⟨h, hgap⟩ | ⟨h, -, hle, -⟩ := counterRecords_cases ctr s
  · have hnogap : ¬ (s.haveLast = true ∧ s.lastCtr.toNat + 1 < ctr.toNat) := fun ⟨hlast, hlt⟩ =>
      hnone ⟨hlast, by omega⟩
    rw [h, if_neg hnogap, total_nil, satAdd_zero]
  · have hmissing : (BitVec.ofNat 24 (ctr.toNat - s.lastCtr.toNat - 1)).toNat = ctr.toNat - s.lastCtr.toNat - 1 := by
      rw [BitVec.toNat_ofNat, Nat.mod_eq_of_lt (by omega)]
    rw [h, if_pos hgap, total_cons, total_nil, droppedBy, hmissing, Nat.add_zero]
  · rw [h, if_neg (by omega)]
    exact satAdd_zero n

/-- Settles O28: the header stage, with the counter event for the appended record. -/
theorem frameHeaderWordUpdatesTheReader : Obligations.FrameHeaderWordUpdatesTheReader := by
  unfold Obligations.FrameHeaderWordUpdatesTheReader
  intro version scid unused1 vcid ctr unused5 s hopen
  have hexec : exec (.frameHeader version scid unused1 vcid ctr unused5) s =
      .next (unlessEnded 0x1#4 (headerStage ⟨version, scid, vcid, ctr⟩) s) := rfl
  refine ⟨counterRecords ctr s, ?_, length_counterRecords_le ctr s, isCtrEvent_of_mem_counterRecords,
    counterRecords_ne_nil_iff ctr s⟩
  rw [hexec, unlessEnded_of_open hopen, headerStage_eq, satAdd_dropped_counterRecords]

/-! ### FRAME as its two words (R94) -/

/-- The zone an M-PDU word carries is the zone of the frame it stands in (R73). -/
theorem zoneOf_eq_drop {n : Nat} {f : Bytes} (h : f.length = n) : zoneOf n f = (f.drop 6).drop 2 := by
  rw [zoneOf, ← h, slice_to_end, List.drop_drop]

/-- A FRAME on an open stream is the M-PDU word's instruction on what the header stage leaves. -/
theorem exec_frame_eq_exec_mpduWord (rsv : BitVec 4) (arg : BitVec 24) {f : Bytes} {s : State} {j : Instr}
    (hopen : s.ended = false) (hlen : f.length = s.frameSize) (hdec : decode s.frameSize (.mpdu (f.drop 6)) = .ok j) :
    exec (.frame rsv arg f) s = exec j (headerStage (decodeFrameHeader f) s) := by
  rw [exec_of_decode_mpdu hdec, unlessEnded_of_open ((headerStage_ended _ s).trans hopen), exec_frame_of_open hopen,
    acceptFrame, fhpOfWord_drop, zoneOf_eq_drop hlen]

/-- Settles O27: both words run their stages, and the header's registers are new after the first. -/
theorem frameIsHeaderWordThenMpduWord : Obligations.FrameIsHeaderWordThenMpduWord := by
  unfold Obligations.FrameIsHeaderWordThenMpduWord
  intro rsv arg f s i j hopen hlen hi hj
  refine ⟨headerStage (decodeFrameHeader f) s, ?_, exec_frame_eq_exec_mpduWord rsv arg hopen hlen hj, ?_⟩
  · rw [exec_of_decode_tfh hi, unlessEnded_of_open hopen, decodeFrameHeader_take]
  · rw [headerStage_eq]
    exact ⟨rfl, rfl, rfl, rfl, rfl⟩

/-- Settles O30: there is no counter event. -/
theorem firstFrameIsNotCompared : Obligations.FirstFrameIsNotCompared := by
  unfold Obligations.FirstFrameIsNotCompared
  intro rsv arg f s j hopen hfirst hdec hlen
  rw [exec_frame_eq_exec_mpduWord rsv arg hopen hlen hdec, headerStage_eq]
  simp [decodeFrameHeader, counterRecords_first hfirst]

/-- Settles O31: there is no counter event. -/
theorem frameInSequenceCountsNothing : Obligations.FrameInSequenceCountsNothing := by
  unfold Obligations.FrameInSequenceCountsNothing
  intro rsv arg f s j hopen hlast hseq hdec hlen
  rw [exec_frame_eq_exec_mpduWord rsv arg hopen hlen hdec, headerStage_eq]
  simp [decodeFrameHeader, counterRecords_inSequence hseq, hlast]

/-- Settles O32: the counter event is the gap's, and Degrade runs. -/
theorem forwardGapIsCountedAndDegrades : Obligations.ForwardGapIsCountedAndDegrades := by
  unfold Obligations.ForwardGapIsCountedAndDegrades
  intro rsv arg f s j hopen hlast hgap hdec hlen
  rw [exec_frame_eq_exec_mpduWord rsv arg hopen hlen hdec, headerStage_eq, satAdd_dropped_counterRecords]
  simp [decodeFrameHeader, counterRecords_gap hlast hgap, hlast, hgap]

/-- Settles O33: the counter event is the anomaly's, which reports no frames, and Degrade runs. -/
theorem counterAnomalyCountsNothingButDegrades : Obligations.CounterAnomalyCountsNothingButDegrades := by
  unfold Obligations.CounterAnomalyCountsNothingButDegrades
  intro rsv arg f s j hopen hlast hle hwrap hdec hlen
  rw [exec_frame_eq_exec_mpduWord rsv arg hopen hlen hdec, headerStage_eq]
  simp [decodeFrameHeader, counterRecords_anomaly hlast hle hwrap, hlast, droppedBy]

/-! ### What the words keep (R110, R200) -/

theorem sameReader_mpduStage (fhp : BitVec 11) (z : Bytes) (s : State) :
    SameReader (recordFhp fhp s) (mpduStage fhp z s) := sameReader_demux fhp z (recordFhp fhp s)

theorem sameReader_packetStage (h : PacketHeader) (rest : Bytes) (s : State) : SameReader s (packetStage h rest s) := by
  rw [packetStage_eq_parse]
  exact (sameReader_closeHead [] s).trans (sameReader_parse _ _ _)

theorem sameReader_unlessEnded {op : BitVec 4} {work : State → State} {s : State} (h : SameReader s (work s)) :
    SameReader s (unlessEnded op work s) := by
  unfold unlessEnded
  split
  · exact sameReader_raiseEvent _ s
  · exact h

/-- On an open stream the M-PDU stage, run by a word, leaves its FHP and the rest of the Frame Reader. -/
theorem mpduWord_keeps_reader (fhp : BitVec 11) (z : Bytes) {s : State} (hopen : s.ended = false) :
    (unlessEnded 0x1#4 (mpduStage fhp z) s).lastFhp = fhp ∧
      SameReader { s with lastFhp := fhp } (unlessEnded 0x1#4 (mpduStage fhp z) s) := by
  rw [unlessEnded_of_open hopen]
  have hsame := sameReader_mpduStage fhp z s
  exact ⟨hsame.lastFhp, hsame⟩

/-- Settles O29: the frames of the M-PDU stage and of the packet stage. -/
theorem mpduAndPacketWordsKeepTheReader : Obligations.MpduAndPacketWordsKeepTheReader := by
  unfold Obligations.MpduAndPacketWordsKeepTheReader
  refine ⟨?_, ?_, ?_⟩
  · intro spare z s hopen
    exact ⟨_, rfl, mpduWord_keeps_reader Config.fhpNohdr z hopen⟩
  · intro spare fhp z s hopen
    exact ⟨_, rfl, mpduWord_keeps_reader fhp z hopen⟩
  · intro h rest s
    exact ⟨_, exec_decodePh h rest s, sameReader_unlessEnded (sameReader_packetStage h rest s)⟩

/-! ### The counters (R103, R160, R162) -/

/-- `t` extends the output of `s`, and all three counters have grown by what the new records count. -/
def CountsRecords (s t : State) : Prop :=
  ∃ l, t.outq = s.outq ++ l ∧ t.cntSaved = satAdd s.cntSaved (total savedBy l) ∧
    t.cntCrcfail = satAdd s.cntCrcfail (total failedBy l) ∧ t.cntDropped = satAdd s.cntDropped (total droppedBy l)

/-- Where CNT_DROPPED is left alone, the account of the Sink counters is the whole account. -/
theorem Accounts.countsRecords {s t : State} (h : Accounts s t) (hdropped : t.cntDropped = s.cntDropped) :
    CountsRecords s t := by
  obtain ⟨l, hout, hsaved, hfailed, hnone⟩ := h
  exact ⟨l, hout, hsaved, hfailed, by rw [hdropped, hnone, satAdd_zero]⟩

theorem CountsRecords.trans {a b c : State} (h : CountsRecords a b) (k : CountsRecords b c) : CountsRecords a c := by
  obtain ⟨l, hout, hsaved, hfailed, hdropped⟩ := h
  obtain ⟨m, kout, ksaved, kfailed, kdropped⟩ := k
  refine ⟨l ++ m, ?_, ?_, ?_, ?_⟩
  · rw [kout, hout, List.append_assoc]
  · rw [ksaved, hsaved, satAdd_satAdd, total_append]
  · rw [kfailed, hfailed, satAdd_satAdd, total_append]
  · rw [kdropped, hdropped, satAdd_satAdd, total_append]

theorem countsRecords_raiseEvent (e : Event) (s : State) (hf : failedBy (.evt e) = 0) (hd : droppedBy (.evt e) = 0) :
    CountsRecords s (raiseEvent e s) := (accounts_raiseEvent e s hf hd).countsRecords rfl

theorem countsRecords_headerStage (h : FrameHeader) (s : State) : CountsRecords s (headerStage h s) := by
  obtain ⟨hsaved, hfailed⟩ := total_sink_counterRecords h.ctr s
  rw [headerStage_eq]
  exact ⟨counterRecords h.ctr s, rfl, by rw [hsaved, satAdd_zero], by rw [hfailed, satAdd_zero], rfl⟩

theorem countsRecords_mpduStage (fhp : BitVec 11) (z : Bytes) (s : State) : CountsRecords s (mpduStage fhp z s) :=
  (accounts_demux fhp z (recordFhp fhp s)).countsRecords (sameReader_mpduStage fhp z s).cntDropped

theorem countsRecords_acceptFrame (f : Bytes) (s : State) : CountsRecords s (acceptFrame f s) :=
  (countsRecords_headerStage _ s).trans (countsRecords_mpduStage _ _ _)

theorem countsRecords_packetStage (h : PacketHeader) (rest : Bytes) (s : State) :
    CountsRecords s (packetStage h rest s) := by
  have hsame := (sameReader_packetStage h rest s).cntDropped
  rw [packetStage_eq_parse] at hsame ⊢
  exact ((accounts_closeHead [] s).trans (accounts_parse _ _ _)).countsRecords hsame

theorem sameReader_flushIfActive (s : State) : SameReader s (flushIfActive s) := by
  unfold flushIfActive
  split
  · exact sameReader_flushSlot s
  · exact SameReader.refl s

theorem sameReader_discardCarryAtEnd (s : State) : SameReader s (discardCarryAtEnd s) := by
  unfold discardCarryAtEnd
  split
  · exact sameReader_discardCarry _ s
  · exact SameReader.refl s

theorem countsRecords_endOfStream (s : State) : CountsRecords s (endOfStream s) := by
  have hsame := (sameReader_flushIfActive s).trans (sameReader_discardCarryAtEnd _)
  refine (accounts_endOfStream s).countsRecords ?_
  rw [endOfStream, setEnded_cntDropped, raiseReport, raiseEvent_cntDropped, hsame.cntDropped]

theorem countsRecords_unlessEnded {op : BitVec 4} {work : State → State} {s : State} (h : CountsRecords s (work s)) :
    CountsRecords s (unlessEnded op work s) := by
  unfold unlessEnded
  split
  · exact countsRecords_raiseEvent _ s rfl rfl
  · exact h

/-- Every instruction but RESET completes with its records counted. -/
theorem exec_countsRecords (i : Instr) (s : State) (hi : ∀ rsv arg, i ≠ .reset rsv arg) :
    ∃ t, exec i s = .next t ∧ CountsRecords s t := by
  cases i with
  | frame rsv arg f => exact ⟨_, rfl, countsRecords_unlessEnded (countsRecords_acceptFrame f s)⟩
  | tail rsv n =>
    have harm : exec (.tail rsv n) s = execTail rsv n s := rfl
    rw [harm, execTail]
    split
    · exact ⟨_, rfl, countsRecords_raiseEvent _ s rfl rfl⟩
    · have hwork : CountsRecords s (endOfStream (raiseEvent (.truncatedTail n) s)) :=
        (countsRecords_raiseEvent _ s rfl rfl).trans (countsRecords_endOfStream _)
      exact ⟨_, rfl, countsRecords_unlessEnded hwork⟩
  | eos rsv arg => exact ⟨_, rfl, countsRecords_unlessEnded (countsRecords_endOfStream s)⟩
  | cfg rsv keep ign =>
    have hsame : Accounts s { s with keepCorrupt := keep = 1#1 } := Accounts.of_same rfl rfl rfl
    exact ⟨_, rfl, hsame.countsRecords rfl⟩
  | read rsv index ign =>
    exact ⟨_, rfl, [.rdata (regView s index)], rfl, by simp [savedBy], by simp [failedBy], by simp [droppedBy]⟩
  | reset rsv arg => exact absurd rfl (hi rsv arg)
  | illegal0 rsv arg | illegal6 rsv arg | illegal7 rsv arg | illegal8 rsv arg | illegal9 rsv arg | illegalA rsv arg
  | illegalB rsv arg | illegalC rsv arg | illegalD rsv arg | illegalE rsv arg =>
    exact ⟨_, rfl, countsRecords_raiseEvent _ s rfl rfl⟩
  | frameHeader version scid unused1 vcid ctr unused5 =>
    exact ⟨_, rfl, countsRecords_unlessEnded (countsRecords_headerStage _ s)⟩
  | mpduNohdr spare zone => exact ⟨_, rfl, countsRecords_unlessEnded (countsRecords_mpduStage _ zone s)⟩
  | mpduPtr spare fhp zone => exact ⟨_, rfl, countsRecords_unlessEnded (countsRecords_mpduStage fhp zone s)⟩
  | phFill ver type shf sf cnt lenField rest =>
    exact ⟨_, rfl, countsRecords_unlessEnded (countsRecords_packetStage _ rest s)⟩
  | phCont ver type shf apid cnt lenField rest | phFirst ver type shf apid cnt lenField rest
  | phLast ver type shf apid cnt lenField rest | phStandalone ver type shf apid cnt lenField rest =>
    exact ⟨_, rfl, countsRecords_unlessEnded (countsRecords_packetStage _ rest s)⟩

/-- Settles O11: the counts of each operation, added up along the instruction. -/
theorem countersCountTheRecords : Obligations.CountersCountTheRecords := by
  unfold Obligations.CountersCountTheRecords
  intro i s hi
  obtain ⟨t, ht, l, hl⟩ := exec_countsRecords i s hi
  exact ⟨t, l, ht, hl⟩

/-! ### The counter event comes first (R94, R197) -/

/-- `t` extends the output of `s` by records none of which is a counter event. -/
def AppendsNoCtrEvent (s t : State) : Prop := ∃ l, t.outq = s.outq ++ l ∧ ∀ r ∈ l, isCtrEvent r = false

theorem AppendsNoCtrEvent.of_outq_eq {s t : State} (h : t.outq = s.outq) : AppendsNoCtrEvent s t := ⟨[], by simp [h]⟩

theorem AppendsNoCtrEvent.trans {a b c : State} (h : AppendsNoCtrEvent a b) (k : AppendsNoCtrEvent b c) :
    AppendsNoCtrEvent a c := by
  obtain ⟨l, hout, hl⟩ := h
  obtain ⟨m, kout, km⟩ := k
  refine ⟨l ++ m, by rw [kout, hout, List.append_assoc], ?_⟩
  intro r hr
  obtain hr | hr := List.mem_append.mp hr
  · exact hl r hr
  · exact km r hr

theorem appendsNoCtrEvent_raiseEvent (e : Event) (s : State) (h : isCtrEvent (.evt e) = false) :
    AppendsNoCtrEvent s (raiseEvent e s) := ⟨[.evt e], rfl, by simpa using h⟩

theorem isCtrEvent_of_mem_flushRecords (p : Packet) (keep : Bool) :
    ∀ r ∈ flushRecords p keep, isCtrEvent r = false := by
  unfold flushRecords
  repeat' split
  all_goals simp [isCtrEvent, sizeEvent, crcEvent]

theorem appendsNoCtrEvent_flush (p : Packet) (s : State) : AppendsNoCtrEvent s (flush p s) := by
  rw [flush_eq_absorb]
  exact ⟨_, rfl, isCtrEvent_of_mem_flushRecords p s.keepCorrupt⟩

theorem appendsNoCtrEvent_flushSlot (s : State) : AppendsNoCtrEvent s (flushSlot s) :=
  appendsNoCtrEvent_flush (slotPacket s) (releaseSlot s)

theorem appendsNoCtrEvent_flushOpt (p : Option Packet) (s : State) : AppendsNoCtrEvent s (flushOpt p s) := by
  cases p with
  | none => exact .of_outq_eq rfl
  | some p => exact appendsNoCtrEvent_flush p s

theorem appendsNoCtrEvent_segmentAccept (h : PacketHeader) (rest : Bytes) (fd : Bool) (s : State) :
    AppendsNoCtrEvent s (segmentAccept h rest fd s).2 := by
  obtain ⟨he, -⟩ | ⟨he, -⟩ | ⟨he, -⟩ | ⟨he, -⟩ | ⟨he, -⟩ := segmentAccept_cases h rest fd s <;> rw [he]
  case inr.inl => exact appendsNoCtrEvent_raiseEvent _ s rfl
  all_goals exact .of_outq_eq rfl

theorem appendsNoCtrEvent_makeActiveOpt (p : Option Packet) (s : State) : AppendsNoCtrEvent s (makeActiveOpt p s) := by
  cases p <;> exact .of_outq_eq rfl

theorem appendsNoCtrEvent_parse (buf : Bytes) (g : Bool) (s : State) : AppendsNoCtrEvent s (parse buf g s) := by
  refine parse_induction (P := fun _ _ s t => AppendsNoCtrEvent s t) ?short ?stop ?next buf g s
  case short =>
    intro buf g s _
    exact .of_outq_eq rfl
  case stop =>
    intro buf g s _ _
    exact (appendsNoCtrEvent_segmentAccept _ _ g s).trans (appendsNoCtrEvent_makeActiveOpt _ _)
  case next =>
    intro buf g s t _ _ ih
    exact ((appendsNoCtrEvent_segmentAccept _ _ g s).trans (appendsNoCtrEvent_flushOpt _ _)).trans ih

theorem appendsNoCtrEvent_resolveCarry (head : Bytes) (s : State) : AppendsNoCtrEvent s (resolveCarry head s) := by
  have hparse : AppendsNoCtrEvent s (parse (s.carry ++ head) s.carryGap (setCarry [] false s)) :=
    appendsNoCtrEvent_parse _ _ (setCarry [] false s)
  unfold resolveCarry
  dsimp only
  split
  · exact hparse.trans (appendsNoCtrEvent_flushSlot _)
  · split
    · exact hparse.trans (appendsNoCtrEvent_raiseEvent _ _ rfl)
    · exact hparse

theorem appendsNoCtrEvent_closeHead (head : Bytes) (s : State) : AppendsNoCtrEvent s (closeHead head s) := by
  unfold closeHead
  split
  · exact appendsNoCtrEvent_resolveCarry head s
  · split
    · exact appendsNoCtrEvent_flushSlot (appendPend head s)
    · unfold discardHead
      split
      · exact appendsNoCtrEvent_raiseEvent _ s rfl
      · exact .of_outq_eq rfl

theorem appendsNoCtrEvent_checkFhp (fhp : BitVec 11) (s : State) : AppendsNoCtrEvent s (checkFhp fhp s) := by
  unfold checkFhp
  split
  · exact appendsNoCtrEvent_raiseEvent _ s rfl
  · exact .of_outq_eq rfl

/-- Counter events come from the header stage alone. -/
theorem appendsNoCtrEvent_mpduStage (fhp : BitVec 11) (z : Bytes) (s : State) :
    AppendsNoCtrEvent s (mpduStage fhp z s) := by
  unfold mpduStage demux
  split
  · unfold demuxNoHdr
    split
    · exact .of_outq_eq rfl
    · exact appendsNoCtrEvent_parse _ _ (setCarry [] false (recordFhp fhp s))
  · exact ((appendsNoCtrEvent_checkFhp fhp (recordFhp fhp s)).trans (appendsNoCtrEvent_closeHead _ _)).trans
      (appendsNoCtrEvent_parse _ _ _)

/-- Settles O34: the header stage writes the registers, CNT_DROPPED and the counter event; the M-PDU stage keeps all of
them and appends no counter event. -/
theorem acceptedFrameUpdatesTheReader : Obligations.AcceptedFrameUpdatesTheReader := by
  unfold Obligations.AcceptedFrameUpdatesTheReader
  intro rsv arg f s hopen
  have hheader := headerStage_eq (decodeFrameHeader f) s
  rw [satAdd_dropped_counterRecords] at hheader
  have hsame := sameReader_mpduStage (fhpDecode f) (zoneOf s.frameSize f) (headerStage (decodeFrameHeader f) s)
  obtain ⟨l, hout, hl⟩ :=
    appendsNoCtrEvent_mpduStage (fhpDecode f) (zoneOf s.frameSize f) (headerStage (decodeFrameHeader f) s)
  rw [hheader] at hsame hout
  refine ⟨_, counterRecords (be24 f 2) s, l, exec_frame_of_open hopen, ?_⟩
  rw [acceptFrame, hheader]
  exact ⟨hsame.haveLast, hsame.lastCtr, hsame.lastVer, hsame.lastScid, hsame.lastVcid,
    (congrArg BitVec.toNat hsame.lastFhp).trans (fhpDecode_toNat f), hsame.cntDropped, hout,
    length_counterRecords_le _ s, isCtrEvent_of_mem_counterRecords, hl⟩

/-! ### The end of the stream (R104 to R107) -/

theorem exec_eos_of_open {rsv : BitVec 4} {arg : BitVec 24} {s : State} (h : s.ended = false) :
    exec (.eos rsv arg) s = .next (endOfStream s) := congrArg Host.Outcome.next (unlessEnded_of_open h)

theorem exec_tail_of_open {rsv : BitVec 4} {n : BitVec 24} {s : State} (h : s.ended = false) (hpos : 1 ≤ n.toNat)
    (hlt : n.toNat < s.frameSize) :
    exec (.tail rsv n) s = .next (endOfStream (raiseEvent (.truncatedTail n) s)) := by
  rw [exec_tail_of_legal hpos hlt, unlessEnded_of_open h]

theorem flushIfActive_of_idle {s : State} (h : s.activeValid = false) : flushIfActive s = s := by
  simp [flushIfActive, h]

theorem discardCarryAtEnd_of_nil {s : State} (h : s.carry = []) : discardCarryAtEnd s = s := by
  simp [discardCarryAtEnd, h]

theorem discardCarryAtEnd_of_ne_nil {s : State} (h : s.carry ≠ []) :
    discardCarryAtEnd s = discardCarry .endOfStream s := if_pos (List.length_pos_iff.mpr h)

/-- The flush of the slot, if it is valid: the slot is free after it, and the group table as it was (R106, R167). -/
theorem flushIfActive_frees (s : State) :
    (flushIfActive s).activeValid = false ∧ (flushIfActive s).groupOpen = s.groupOpen ∧
      s.outq <+: (flushIfActive s).outq := by
  cases hactive : s.activeValid with
  | false =>
    rw [flushIfActive_of_idle hactive]
    exact ⟨hactive, rfl, List.prefix_rfl⟩
  | true =>
    have hflush : flushIfActive s = flushSlot s := if_pos hactive
    have hgroup : (flushSlot s).groupOpen = s.groupOpen := by
      rw [flushSlot, flush_eq_absorb]
      rfl
    rw [hflush]
    exact ⟨(slotFree_flushSlot s).active, hgroup, (accounts_flushSlot s).outq_prefix⟩

/-- CARRY is empty after the discard at the end; the slot and the group table are as they were (R106). -/
theorem discardCarryAtEnd_empties (s : State) :
    (discardCarryAtEnd s).carry = [] ∧ (discardCarryAtEnd s).activeValid = s.activeValid ∧
      (discardCarryAtEnd s).groupOpen = s.groupOpen ∧ s.outq <+: (discardCarryAtEnd s).outq := by
  by_cases hcarry : s.carry = []
  · rw [discardCarryAtEnd_of_nil hcarry]
    exact ⟨hcarry, rfl, rfl, List.prefix_rfl⟩
  · rw [discardCarryAtEnd_of_ne_nil hcarry]
    exact ⟨rfl, rfl, rfl, (accounts_discardCarry _ s).outq_prefix⟩

/-- EndOfStream reports the totals it leaves as its last record, and leaves nothing in flight or carried (R106, R107,
R215). -/
theorem endOfStream_reports (s : State) :
    ∃ l, (endOfStream s).outq = s.outq ++ l ++
        [reportRecord (endOfStream s).cntDropped (endOfStream s).cntSaved (endOfStream s).cntCrcfail] ∧
      (endOfStream s).ended = true ∧ (endOfStream s).activeValid = false ∧ (endOfStream s).carry = [] ∧
      (endOfStream s).groupOpen = s.groupOpen := by
  obtain ⟨hfree, hgroup, hflushed⟩ := flushIfActive_frees s
  obtain ⟨hcarry, hactive, hgroup', hdiscarded⟩ := discardCarryAtEnd_empties (flushIfActive s)
  obtain ⟨l, hl⟩ := hflushed.trans hdiscarded
  rw [hfree] at hactive
  rw [hgroup] at hgroup'
  unfold endOfStream
  generalize discardCarryAtEnd (flushIfActive s) = u at *
  exact ⟨l, by rw [hl]; rfl, rfl, hactive, hcarry, hgroup'⟩

/-- Settles O37: EOS is EndOfStream, and TAIL is EndOfStream after its notice. -/
theorem endOfStreamReportsAndLeavesNothing : Obligations.EndOfStreamReportsAndLeavesNothing := by
  unfold Obligations.EndOfStreamReportsAndLeavesNothing
  intro rsv n arg s hopen
  constructor
  · obtain ⟨l, hl⟩ := endOfStream_reports s
    exact ⟨_, l, exec_eos_of_open hopen, hl⟩
  · intro hpos hlt
    obtain ⟨l, hl⟩ := endOfStream_reports (raiseEvent (.truncatedTail n) s)
    exact ⟨_, l, exec_tail_of_open hopen hpos hlt, hl⟩

/-- Settles O38: past its notice, TAIL's work is EOS's. -/
theorem tailIsItsNoticeThenEos : Obligations.TailIsItsNoticeThenEos := by
  unfold Obligations.TailIsItsNoticeThenEos
  intro rsv rsv' n arg s hopen hpos hlt
  have heos : exec (.eos rsv' arg) (raiseEvent (.truncatedTail n) s) = _ := exec_eos_of_open hopen
  exact (exec_tail_of_open hopen hpos hlt).trans heos.symm

/-- Settles O39: with nothing in flight EndOfStream is the discard of CARRY, if it holds bytes, and the report. -/
theorem eosWithoutPacketDiscardsCarry : Obligations.EosWithoutPacketDiscardsCarry := by
  unfold Obligations.EosWithoutPacketDiscardsCarry
  intro rsv arg s hopen hidle
  rw [exec_eos_of_open hopen, endOfStream, flushIfActive_of_idle hidle]
  constructor
  · intro hcarry
    rw [discardCarryAtEnd_of_nil hcarry]
    rfl
  · intro hcarry
    rw [discardCarryAtEnd_of_ne_nil hcarry]
    simp [setEnded, raiseReport, raiseEvent, emit, discardCarry, setCarry, discardEvent, reportRecord]

end Sys2Proof.Machine
end

section
/-! The invariants of 10_state.md section 6 (R40 to R44, R126, R215): every operation of the demultiplexer keeps the
assembly invariants, so every instruction, and every step, keeps `StateInv`. -/

namespace Sys2Proof.Machine

/-! ### `StateInv` as its parts -/

theorem StateInv.assembly {s : State} (h : StateInv s) : Assembly s :=
  ⟨h.carryEmpty, h.carryShort, h.gapOfCarry, h.store, h.lenRange, h.notFill, h.slotEmpty⟩

theorem stateInv_of_assembly {s : State} (hsize : Config.FrameSizeLegal s.frameSize) (a : Assembly s)
    (hended : s.ended = true → s.activeValid = false ∧ s.carry = []) : StateInv s :=
  ⟨hsize, a.carryEmpty, a.carryShort, a.gapOfCarry, a.store, a.lenRange, a.notFill, a.slotEmpty, hended⟩

/-- Work on an open stream that leaves the stream open has only the assembly to answer for. -/
theorem StateInv.of_open {s t : State} (h : StateInv s) (hopen : t.ended = false) (hsize : t.frameSize = s.frameSize)
    (a : Assembly t) : StateInv t :=
  stateInv_of_assembly (by rw [hsize]; exact h.frameSize) a (by simp [hopen])

/-- An update outside the slot, CARRY, FRAME_SIZE and ENDED keeps the invariants. -/
theorem StateInv.of_same {s t : State} (h : StateInv s) (e : SameAssembly s t) (hsize : t.frameSize = s.frameSize)
    (hended : t.ended = s.ended) : StateInv t := by
  refine stateInv_of_assembly (by rw [hsize]; exact h.frameSize) (h.assembly.of_same e) ?_
  rw [hended, e.activeValid, e.carry]
  exact h.endedIdle

/-- With a free slot and an empty CARRY the invariants hold, whether or not the stream has ended. -/
theorem SlotFree.stateInv {s : State} (f : SlotFree s) (hsize : Config.FrameSizeLegal s.frameSize) (hcarry : s.carry = [])
    (hgap : s.carryGap = false) : StateInv s :=
  stateInv_of_assembly hsize (f.assembly (by simp [hcarry]) fun _ => hgap) fun _ => ⟨f.active, hcarry⟩

theorem stateInv_raiseEvent {s : State} (e : Event) (h : StateInv s) : StateInv (raiseEvent e s) :=
  h.of_same (sameAssembly_raiseEvent e s) rfl rfl

/-! ### The stages of FRAME -/

/-- Degrade sets FD of a packet in flight and the gap flag of a CARRY that holds bytes (R100), so the header stage keeps
the assembly. -/
theorem assembly_headerStage (h : FrameHeader) {s : State} (a : Assembly s) : Assembly (headerStage h s) := by
  rw [headerStage_eq]
  refine ⟨a.carryEmpty, a.carryShort, ?_, a.store, a.lenRange, a.notFill, ?_⟩
  · intro hcarry
    have hempty : s.carry = [] := hcarry
    simp [hempty, a.gapOfCarry hempty]
  · intro hactive
    have hidle : s.activeValid = false := hactive
    obtain ⟨ver, type, shf, apid, sf, cnt, len, fd, rx⟩ := a.slotEmpty hidle
    exact ⟨ver, type, shf, apid, sf, cnt, len, by simp [fd, hidle], rx⟩

theorem stateInv_headerStage (h : FrameHeader) {s : State} (hs : StateInv s) (hopen : s.ended = false) :
    StateInv (headerStage h s) :=
  hs.of_open (by rw [headerStage_ended, hopen]) (by rw [headerStage_eq]) (assembly_headerStage h hs.assembly)

/-- The M-PDU stage records FHP, which no invariant reads, and demultiplexes (R126). -/
theorem stateInv_mpduStage (fhp : BitVec 11) (z : Bytes) {s : State} (hs : StateInv s) (hopen : s.ended = false) :
    StateInv (mpduStage fhp z s) := by
  have hsame := sameReader_mpduStage fhp z s
  have hrecorded : Assembly (recordFhp fhp s) := hs.assembly.of_same (by constructor <;> rfl)
  exact hs.of_open (hsame.ended.trans hopen) hsame.frameSize (assembly_demux fhp z _ hrecorded)

theorem stateInv_acceptFrame (f : Bytes) {s : State} (hs : StateInv s) (hopen : s.ended = false) :
    StateInv (acceptFrame f s) :=
  stateInv_mpduStage _ _ (stateInv_headerStage _ hs hopen) (by rw [headerStage_ended, hopen])

/-- The packet stage closes what is in progress, which frees the slot, and parses (R126). -/
theorem stateInv_packetStage (h : PacketHeader) (rest : Bytes) {s : State} (hs : StateInv s) (hopen : s.ended = false) :
    StateInv (packetStage h rest s) := by
  have hsame := sameReader_packetStage h rest s
  have hfree := (closeHead_free [] s hs.assembly).1
  refine hs.of_open (hsame.ended.trans hopen) hsame.frameSize ?_
  rw [packetStage_eq_parse]
  exact assembly_parse _ _ _ hfree

/-! ### The end of the stream and RESET -/

theorem endOfStream_frameSize (s : State) : (endOfStream s).frameSize = s.frameSize :=
  ((sameReader_flushIfActive s).trans (sameReader_discardCarryAtEnd _)).frameSize

theorem stateInv_endOfStream {s : State} (hs : StateInv s) : StateInv (endOfStream s) := by
  obtain ⟨hfree, hcarry, hgap⟩ := endOfStream_free s hs.assembly
  exact hfree.stateInv (by rw [endOfStream_frameSize]; exact hs.frameSize) hcarry hgap

theorem stateInv_resetState {s : State} (hs : StateInv s) : StateInv (resetState s) :=
  SlotFree.stateInv ⟨rfl, ⟨rfl, rfl, rfl, rfl, rfl, rfl, rfl, rfl, rfl⟩, rfl⟩ hs.frameSize rfl rfl

/-! ### Instructions and steps -/

/-- After the end the work is turned away with an event; before it the work decides (R108). -/
theorem stateInv_unlessEnded {op : BitVec 4} {work : State → State} {s : State} (hs : StateInv s)
    (hwork : s.ended = false → StateInv (work s)) : StateInv (unlessEnded op work s) := by
  cases hended : s.ended with
  | true =>
    rw [unlessEnded_of_ended hended]
    exact stateInv_raiseEvent _ hs
  | false =>
    rw [unlessEnded_of_open hended]
    exact hwork hended

/-- Every instruction completes in a state with the invariants. -/
theorem exec_stateInv (i : Instr) {s : State} (hs : StateInv s) : ∃ t, exec i s = .next t ∧ StateInv t := by
  cases i with
  | frame rsv arg f => exact ⟨_, rfl, stateInv_unlessEnded hs (stateInv_acceptFrame f hs)⟩
  | tail rsv n =>
    have harm : exec (.tail rsv n) s = execTail rsv n s := rfl
    rw [harm, execTail]
    split
    · exact ⟨_, rfl, stateInv_raiseEvent _ hs⟩
    · exact ⟨_, rfl, stateInv_unlessEnded hs fun _ => stateInv_endOfStream (stateInv_raiseEvent _ hs)⟩
  | eos rsv arg => exact ⟨_, rfl, stateInv_unlessEnded hs fun _ => stateInv_endOfStream hs⟩
  | cfg rsv keep ign => exact ⟨_, rfl, hs.of_same (by constructor <;> rfl) rfl rfl⟩
  | read rsv index ign => exact ⟨_, exec_read rsv index ign s, hs.of_same (by constructor <;> rfl) rfl rfl⟩
  | reset rsv arg => exact ⟨_, rfl, stateInv_resetState hs⟩
  | illegal0 rsv arg | illegal6 rsv arg | illegal7 rsv arg | illegal8 rsv arg | illegal9 rsv arg | illegalA rsv arg
  | illegalB rsv arg | illegalC rsv arg | illegalD rsv arg | illegalE rsv arg =>
    exact ⟨_, rfl, stateInv_raiseEvent _ hs⟩
  | frameHeader version scid unused1 vcid ctr unused5 =>
    exact ⟨_, rfl, stateInv_unlessEnded hs (stateInv_headerStage _ hs)⟩
  | mpduNohdr spare zone => exact ⟨_, rfl, stateInv_unlessEnded hs (stateInv_mpduStage _ zone hs)⟩
  | mpduPtr spare fhp zone => exact ⟨_, rfl, stateInv_unlessEnded hs (stateInv_mpduStage fhp zone hs)⟩
  | phFill ver type shf sf cnt lenField rest =>
    exact ⟨_, rfl, stateInv_unlessEnded hs (stateInv_packetStage _ rest hs)⟩
  | phCont ver type shf apid cnt lenField rest | phFirst ver type shf apid cnt lenField rest
  | phLast ver type shf apid cnt lenField rest | phStandalone ver type shf apid cnt lenField rest =>
    exact ⟨_, rfl, stateInv_unlessEnded hs (stateInv_packetStage _ rest hs)⟩

theorem StateInv.of_exec {i : Instr} {s t : State} (hs : StateInv s) (h : exec i s = .next t) : StateInv t := by
  obtain ⟨u, hu, hinv⟩ := exec_stateInv i hs
  rw [hu] at h
  cases h
  exact hinv

/-- Settles O8: an idle step changes nothing, and any other is an instruction on the state whose port has lost it. -/
theorem everyStepKeepsTheInvariants : Obligations.EveryStepKeepsTheInvariants := by
  unfold Obligations.EveryStepKeepsTheInvariants
  refine ⟨?_, fun i s t hs h => hs.of_exec h⟩
  intro s t hs hstep
  obtain ⟨-, rfl⟩ | ⟨c, later, i, -, -, hexec⟩ := step_next_cases hstep
  · exact hs
  · have htaken : StateInv { s with port := later } := hs.of_same (by constructor <;> rfl) rfl rfl
    exact htaken.of_exec hexec

end Sys2Proof.Machine
end

section
/-! The packet in the slot: what AppendPend makes of it (R58), and what its flush leaves (R154 to R164), in the terms of
the statements. -/

namespace Sys2Proof.Machine

/-! ### AppendPend in the one form of the store (R58) -/

theorem appendPend_eq (b : Bytes) {s : State} (hwf : Memory.wf s) :
    appendPend b s = { s with
      pendRx := satAdd s.pendRx b.length
      pendData := s.pendData ++ b.take (s.pendLen.toNat - s.pendData.length) } := by
  rw [hwf.1, ← appendPend_data b s hwf]
  rfl

theorem appendPend_nil {s : State} (hwf : Memory.wf s) : appendPend [] s = s := by
  simp [appendPend_eq [] hwf]

/-- Bytes that stay within L saturate nothing and are all stored. -/
theorem appendPend_within {b : Bytes} {s : State} (hwf : Memory.wf s)
    (hfits : s.pendRx.toNat + b.length ≤ s.pendLen.toNat) :
    (appendPend b s).pendRx = BitVec.ofNat 32 (s.pendRx.toNat + b.length) ∧
      (appendPend b s).pendRx.toNat = s.pendRx.toNat + b.length ∧ (appendPend b s).pendData = s.pendData ++ b := by
  have hlen := s.pendLen.isLt
  have hmin : min (s.pendRx.toNat + b.length) Config.cntMax = s.pendRx.toNat + b.length :=
    Nat.min_eq_left (by simp only [Config.cntMax]; omega)
  have hroom : b.length ≤ s.pendLen.toNat - storedCount s := by
    unfold storedCount
    omega
  refine ⟨?_, ?_, ?_⟩
  · rw [appendPend_pendRx, satAdd, hmin]
  · rw [appendPend_pendRx, satAdd_toNat, hmin]
  · rw [appendPend_data b s hwf, List.take_of_length_le hroom]

/-! ### Flush -/

/-- A packet value with bytes missing is dropped, whatever KEEP_CORRUPT is (R156). -/
theorem flush_short {p : Packet} (s : State) (hapid : p.apid ≠ Config.apidFill) (hshort : p.rx.toNat < p.len.toNat) :
    flush p s = raiseEvent (sizeEvent p .short) s := by
  rw [flush, if_neg hapid, if_pos hshort]

/-- The verdict on a complete data field with a right CRC (R149 to R151). -/
theorem verdict_good {p : Packet} (hlen : p.data.length = p.len.toNat) (hgood : GoodField p.data) :
    verdict p = {
      payload := p.data.take (p.data.length - 2)
      crcRx := be16 p.data (p.data.length - 2)
      crcCalc := config.crc16Fn (p.data.take (p.data.length - 2))
      noTrailer := false
      ok := true } := by
  have htrailer := hgood.trailer
  unfold verdict
  rw [← hlen, if_pos htrailer]
  simp [slice_zero, validateCrc, hgood.crc]

/-- A complete packet with a right CRC is released, and nothing else happens (R161 to R163). -/
theorem flush_good {p : Packet} (s : State) (hapid : p.apid ≠ Config.apidFill) (hexact : p.rx.toNat = p.len.toNat)
    (hlen : p.data.length = p.len.toNat) (hgood : GoodField p.data) :
    flush p s = emit (.pkt (pktRecord p (verdict p) false)) (addSaved s) := by
  have hok : (verdict p).ok = true := by rw [verdict_good hlen hgood]
  rw [flush, if_neg hapid, if_neg (by omega), if_neg (by omega), crcStep, if_pos hok, releaseStep, hok]
  rfl

/-! ### The flush of the slot (R118, R167) -/

/-- The flush reads and writes nothing of LAST_FHP. -/
theorem flushSlot_recordFhp (fhp : BitVec 11) (s : State) : flushSlot (recordFhp fhp s) = recordFhp fhp (flushSlot s) := by
  rw [flushSlot, flushSlot, flush_eq_absorb, flush_eq_absorb]
  rfl

/-- After the flush of a packet in flight nothing is in progress (R40). -/
theorem idle_flushSlot {s : State} (a : Assembly s) (hactive : s.activeValid = true) : Idle (flushSlot s) := by
  obtain ⟨hcarry, hgap⟩ := flushSlot_carry s
  have hempty := a.carryEmpty hactive
  exact ⟨(slotFree_flushSlot s).active, hcarry.trans hempty, hgap.trans (a.gapOfCarry hempty)⟩

theorem flushSlot_short {s : State} (a : Assembly s) (hactive : s.activeValid = true)
    (hshort : s.pendRx.toNat < s.pendLen.toNat) :
    flushSlot s = { releaseSlot s with outq := s.outq ++ [slotSizeEvent s s.pendRx .short] } :=
  flush_short (p := slotPacket s) (releaseSlot s) (a.notFill hactive) hshort

theorem flushSlot_good {s : State} (a : Assembly s) (hactive : s.activeValid = true)
    (hexact : s.pendRx.toNat = s.pendLen.toNat) (hgood : GoodField s.pendData) :
    flushSlot s = { releaseSlot s with
      cntSaved := satAdd s.cntSaved 1, outq := s.outq ++ [.pkt (slotRecord s s.pendData true false)] } := by
  have hdata := slotPacket_data s a.store
  have hlen : (slotPacket s).data.length = (slotPacket s).len.toNat := by
    have hstored := a.store.1
    rw [storedCount, hexact, Nat.min_self] at hstored
    rw [hdata, hstored]
    rfl
  have hfield : GoodField (slotPacket s).data := by rw [hdata]; exact hgood
  rw [flushSlot, flush_good (releaseSlot s) (a.notFill hactive) hexact hlen hfield, verdict_good hlen hfield, hdata]
  rfl

/-- A packet that `b` leaves short is dropped with the bytes received reported (R156). -/
theorem flushSlot_appendPend_short {b : Bytes} {s : State} (a : Assembly s) (hactive : s.activeValid = true)
    (hshort : s.pendRx.toNat + b.length < s.pendLen.toNat) :
    flushSlot (appendPend b s) = { releaseSlot s with
      outq := s.outq ++ [slotSizeEvent s (BitVec.ofNat 32 (s.pendRx.toNat + b.length)) .short] } := by
  obtain ⟨hrx, hrxNat, -⟩ := appendPend_within a.store hshort.le
  rw [flushSlot_short (assembly_appendPend b s a hactive) hactive (by rw [hrxNat]; exact hshort), hrx]
  rfl

/-- A packet that `b` completes to exactly L bytes with a right CRC is released, its bytes in order (R161, R164). -/
theorem flushSlot_appendPend_good {b : Bytes} {s : State} (a : Assembly s) (hactive : s.activeValid = true)
    (hexact : s.pendRx.toNat + b.length = s.pendLen.toNat) (hgood : GoodField (s.pendData ++ b)) :
    flushSlot (appendPend b s) = { releaseSlot s with
      cntSaved := satAdd s.cntSaved 1, outq := s.outq ++ [.pkt (slotRecord s (s.pendData ++ b) true false)] } := by
  obtain ⟨-, hrxNat, hdata⟩ := appendPend_within a.store hexact.le
  rw [flushSlot_good (assembly_appendPend b s a hactive) hactive (by rw [hrxNat]; exact hexact)
    (by rw [hdata]; exact hgood), hdata]
  rfl

/-- With a packet in flight EOS is its flush, then the report and the end (R106, R107). -/
theorem exec_eos_of_active (rsv : BitVec 4) (arg : BitVec 24) {s : State} (a : Assembly s) (hopen : s.ended = false)
    (hactive : s.activeValid = true) :
    exec (.eos rsv arg) s = .next { flushSlot s with
      ended := true
      outq := (flushSlot s).outq ++
        [reportRecord (flushSlot s).cntDropped (flushSlot s).cntSaved (flushSlot s).cntCrcfail] } := by
  have hflush : flushIfActive s = flushSlot s := if_pos hactive
  rw [exec_eos_of_open hopen, endOfStream, hflush, discardCarryAtEnd_of_nil (idle_flushSlot a hactive).carry]
  rfl

end Sys2Proof.Machine
end

section
/-! The statements of 41_mpdu_demux.md: the M-PDU words as the demultiplexer's cases (R113 to R125), and what each case
closes before the tail is parsed. -/

namespace Sys2Proof.Machine

/-! ### Idle states and the rest of a buffer (R127) -/

theorem idle_setCarry {s : State} (hidle : s.activeValid = false) : Idle (setCarry [] false s) := ⟨hidle, rfl, rfl⟩

theorem setCarry_of_idle {s : State} (i : Idle s) : setCarry [] false s = s := by
  rw [setCarry, ← i.carry, ← i.gap]

/-! ### The cases of the head (R114) -/

theorem closeHead_of_active (head : Bytes) {s : State} (hactive : s.activeValid = true) :
    closeHead head s = flushSlot (appendPend head s) := by
  simp [closeHead, completeActive, hactive]

theorem closeHead_of_carry (head : Bytes) {s : State} (hidle : s.activeValid = false) (hcarry : s.carry ≠ []) :
    closeHead head s = resolveCarry head s := if_pos ⟨hidle, List.length_pos_iff.mpr hcarry⟩

theorem closeHead_of_nothing (head : Bytes) {s : State} (hidle : s.activeValid = false) (hcarry : s.carry = []) :
    closeHead head s = discardHead head s := by
  simp [closeHead, hidle, hcarry]

/-- The head that completes the packet in flight is appended to it before the flush, whatever FHP was recorded (R118). -/
theorem closeHead_recordFhp_of_active (head : Bytes) (fhp : BitVec 11) {s : State} (hactive : s.activeValid = true) :
    closeHead head (recordFhp fhp s) = { flushSlot (appendPend head s) with lastFhp := fhp } := by
  have hcomm : appendPend head (recordFhp fhp s) = recordFhp fhp (appendPend head s) := rfl
  rw [closeHead_of_active (s := recordFhp fhp s) head hactive, hcomm, flushSlot_recordFhp]
  rfl

theorem discardHead_eq (head : Bytes) (s : State) :
    discardHead head s = { s with
      outq := s.outq ++ (if head = [] then [] else [.evt (.bytesDiscarded (BitVec.ofNat 16 head.length) .unowned)]) } := by
  by_cases hhead : head = []
  · simp [discardHead, hhead]
  · rw [discardHead, if_pos (List.length_pos_iff.mpr hhead), if_neg hhead]
    rfl

/-- CARRY and a head too short for a header are discarded together (R117, R125). -/
theorem resolveCarry_residue {head : Bytes} {s : State} (hidle : s.activeValid = false) (hcarry : s.carry ≠ [])
    (hshort : s.carry.length + head.length < 6) :
    resolveCarry head s = { s with
      carry := [], carryGap := false
      outq := s.outq ++ [.evt (.bytesDiscarded (BitVec.ofNat 16 (s.carry.length + head.length)) .residue)] } := by
  have hparse := parse_short (s.carry ++ head) s.carryGap (setCarry [] false s) (by rw [List.length_append]; exact hshort)
  rw [resolveCarry, hparse]
  simp [hidle, hcarry, discardCarry, discardEvent, setCarry, raiseEvent, emit]

/-- Case A1 leaves what `CarryResolved` says, and nothing in progress (R115 to R117). -/
theorem resolveCarry_of_resolved {head : Bytes} {s u : State} (f : SlotFree s)
    (r : CarryResolved (s.carry ++ head) s.carryGap (setCarry [] false s) u) : resolveCarry head s = u ∧ Idle u :=
  r.closes (slotFree_setCarry _ _ f) (idle_setCarry f.active)

/-- In every state, whichever case closes the head, nothing is in flight after it (R116 to R119). -/
theorem closeHead_activeValid (head : Bytes) (s : State) : (closeHead head s).activeValid = false := by
  cases hactive : s.activeValid with
  | true =>
    rw [closeHead_of_active head hactive]
    exact (slotFree_flushSlot _).active
  | false =>
    by_cases hcarry : s.carry = []
    · rw [closeHead_of_nothing head hactive hcarry, discardHead_eq]
      exact hactive
    · rw [closeHead_of_carry head hactive hcarry, resolveCarry]
      split
      · exact (slotFree_flushSlot _).active
      · next hparsed =>
        split
        · simpa [discardCarry] using hparsed
        · simpa using hparsed

/-! ### NOHDR (R122, R123) -/

theorem exec_mpduNohdr_of_active (spare : BitVec 5) (z : Bytes) {s : State} (hopen : s.ended = false)
    (hactive : s.activeValid = true) :
    exec (.mpduNohdr spare z) s = .next (appendPend z (recordFhp Config.fhpNohdr s)) := by
  have harm : exec (.mpduNohdr spare z) s = .next (unlessEnded 0x1#4 (mpduStage Config.fhpNohdr z) s) := rfl
  rw [harm, unlessEnded_of_open hopen, mpduStage, demux, if_pos rfl, demuxNoHdr,
    if_pos (show (recordFhp Config.fhpNohdr s).activeValid = true from hactive)]

/-- With nothing in flight the zone is parsed after what CARRY held (R123). -/
theorem exec_mpduNohdr_of_idle (spare : BitVec 5) (z : Bytes) {s : State} (hopen : s.ended = false)
    (hidle : s.activeValid = false) :
    exec (.mpduNohdr spare z) s = .next (parse (s.carry ++ z) s.carryGap
      { s with lastFhp := Config.fhpNohdr, carry := [], carryGap := false }) := by
  have harm : exec (.mpduNohdr spare z) s = .next (unlessEnded 0x1#4 (mpduStage Config.fhpNohdr z) s) := rfl
  rw [harm, unlessEnded_of_open hopen, mpduStage, demux, if_pos rfl, demuxNoHdr, if_neg (by simp [hidle])]
  rfl

/-- Settles O44: the M-PDU stage is AppendPend, in the one form of the store. -/
theorem noHeaderFrameContinuesThePacket : Obligations.NoHeaderFrameContinuesThePacket := by
  unfold Obligations.NoHeaderFrameContinuesThePacket
  intro spare z s hopen hactive hwf
  rw [exec_mpduNohdr_of_active spare z hopen hactive, appendPend_eq (s := recordFhp Config.fhpNohdr s) z hwf]
  rfl

/-- Settles O45: Parse on CARRY and the zone, by how far the first packet reaches. -/
theorem noHeaderFrameWithoutContextIsParsed : Obligations.NoHeaderFrameWithoutContextIsParsed := by
  unfold Obligations.NoHeaderFrameWithoutContextIsParsed
  intro spare z s hopen hidle hcarry hzone u
  have hexec : exec (.mpduNohdr spare z) s = .next (parse (s.carry ++ z) s.carryGap u) :=
    exec_mpduNohdr_of_idle spare z hopen hidle
  have hu : Idle u := ⟨hidle, rfl, rfl⟩
  have hbuf : (s.carry ++ z).length ≤ Config.zone s.frameSize + 5 := by rw [List.length_append, hzone]; omega
  rw [hexec]
  refine ⟨?_, ?_, ?_, ?_⟩
  · intro hgap
    rw [parseRest_eq_parse _ u hu hopen hbuf, hgap]
  · intro h d hsplit hd
    obtain ⟨haccepted, hrejected⟩ := parse_headerBytes h d s.carryGap u hd rfl rfl
    rw [hsplit]
    exact ⟨fun ha => congrArg _ (haccepted ha), fun ha => congrArg _ (hrejected ha)⟩
  · intro h d rest hsplit hd hrest
    obtain ⟨hassembly, hreader⟩ := segmentDone_same h d s.carryGap u
    rw [hsplit, List.length_append] at hbuf
    rw [hsplit, parse_packetBytes h d rest s.carryGap u hd hrest, parseRest_eq_parse _ _ (hu.of_same hassembly)
      (hreader.ended.trans hopen) (by rw [hreader.frameSize]; exact (Nat.le_add_left _ _).trans hbuf)]
  · intro hshort hne
    have hlen : ((s.carry ++ z).length != 0) = true := by simp [hne]
    rw [parse_short _ _ _ hshort, hlen, Bool.and_true]
    rfl

/-! ### The pointer words (R114) -/

theorem exec_mpduPtr_of_open (spare : BitVec 5) {fhp : BitVec 11} (z : Bytes) {s : State} (hopen : s.ended = false)
    (hptr : fhp ≠ Config.fhpNohdr) :
    exec (.mpduPtr spare fhp z) s = .next (parse (tailOf s.frameSize fhp z) false
      (closeHead (headOf fhp z) (checkFhp fhp (recordFhp fhp s)))) := by
  have harm : exec (.mpduPtr spare fhp z) s = .next (unlessEnded 0x1#4 (mpduStage fhp z) s) := rfl
  rw [harm, unlessEnded_of_open hopen, mpduStage, demux, if_neg hptr]
  rfl

/-- A pointer inside the zone: once the head is closed with nothing left in progress, the zone is parsed from the pointer
on (R114, R120). -/
theorem exec_mpduPtr_of_inside (spare : BitVec 5) {fhp : BitVec 11} {z : Bytes} {s u : State} (hopen : s.ended = false)
    (hptr : fhp ≠ Config.fhpNohdr) (hzone : z.length = Config.zone s.frameSize)
    (hinside : fhp.toNat < Config.zone s.frameSize) (hclose : closeHead (z.take fhp.toNat) (recordFhp fhp s) = u)
    (hidle : Idle u) : exec (.mpduPtr spare fhp z) s = parseRest (z.drop fhp.toNat) u := by
  have hhead : headOf fhp z = z.take fhp.toNat := slice_zero z fhp.toNat
  have htail : tailOf s.frameSize fhp z = z.drop fhp.toNat := by rw [tailOf, ← hzone, slice_to_end]
  have hcheck : checkFhp fhp (recordFhp fhp s) = recordFhp fhp s := if_neg (Nat.not_le.mpr hinside)
  have hreader : SameReader (recordFhp fhp s) u := hclose ▸ sameReader_closeHead _ _
  have hfits : (z.drop fhp.toNat).length ≤ Config.zone u.frameSize + 5 := by
    rw [hreader.frameSize, List.length_drop, hzone]
    exact (Nat.sub_le _ _).trans (Nat.le_add_right _ _)
  rw [exec_mpduPtr_of_open spare z hopen hptr, hhead, htail, hcheck, hclose,
    parseRest_eq_parse _ u hidle (hreader.ended.trans hopen) hfits]

/-- A pointer past the zone: its event comes first, the whole zone is the head, and no byte is parsed after it (R121). -/
theorem exec_mpduPtr_of_outside (spare : BitVec 5) {fhp : BitVec 11} {z : Bytes} {s : State} (hopen : s.ended = false)
    (hptr : fhp ≠ Config.fhpNohdr) (hzone : z.length = Config.zone s.frameSize)
    (houtside : Config.zone s.frameSize ≤ fhp.toNat) :
    exec (.mpduPtr spare fhp z) s =
      .next (setCarry [] false (closeHead z (recordFhp fhp (raiseEvent (.fhpOutOfRange fhp) s)))) := by
  have hhead : headOf fhp z = z := by rw [headOf, slice_zero, List.take_of_length_le (by rw [hzone]; exact houtside)]
  have htail : tailOf s.frameSize fhp z = [] := by
    rw [tailOf, ← hzone, slice, List.take_length, List.drop_eq_nil_of_le (by rw [hzone]; exact houtside)]
  have hcheck : checkFhp fhp (recordFhp fhp s) = recordFhp fhp (raiseEvent (.fhpOutOfRange fhp) s) := if_pos houtside
  rw [exec_mpduPtr_of_open spare z hopen hptr, hhead, htail, hcheck, parse_short _ _ _ (by simp)]
  rfl

/-- Where the head is closed with nothing left in progress, that is the answer. -/
theorem exec_mpduPtr_of_outside_idle (spare : BitVec 5) {fhp : BitVec 11} {z : Bytes} {s u : State}
    (hopen : s.ended = false) (hptr : fhp ≠ Config.fhpNohdr) (hzone : z.length = Config.zone s.frameSize)
    (houtside : Config.zone s.frameSize ≤ fhp.toNat)
    (hclose : closeHead z (recordFhp fhp (raiseEvent (.fhpOutOfRange fhp) s)) = u) (hidle : Idle u) :
    exec (.mpduPtr spare fhp z) s = .next u := by
  rw [exec_mpduPtr_of_outside spare hopen hptr hzone houtside, hclose, setCarry_of_idle hidle]

/-- Settles O46: case A0 with the head's bytes, if it has any, reported (R119). -/
theorem unownedHeadIsDiscarded : Obligations.UnownedHeadIsDiscarded := by
  unfold Obligations.UnownedHeadIsDiscarded
  intro spare fhp z s hopen hidle hzone hinside hptr
  refine exec_mpduPtr_of_inside spare hopen hptr hzone hinside ?_ ⟨hidle.active, hidle.carry, hidle.gap⟩
  have hlen : (z.take fhp.toNat).length = fhp.toNat := List.length_take_of_le (hinside.le.trans_eq hzone.symm)
  have hnil : z.take fhp.toNat = [] ↔ fhp = 0#11 := by
    rw [← List.length_eq_zero_iff, hlen]
    exact ⟨fun h => BitVec.eq_of_toNat_eq h, fun h => by rw [h]; rfl⟩
  rw [closeHead_of_nothing (s := recordFhp fhp s) _ hidle.active hidle.carry, discardHead_eq, hlen]
  simp only [hnil]
  rfl

/-- Settles O47: case A1 with a buffer too short for a header. -/
theorem residueBeforeTheHeaderIsDiscarded : Obligations.ResidueBeforeTheHeaderIsDiscarded := by
  unfold Obligations.ResidueBeforeTheHeaderIsDiscarded
  intro spare fhp z s hopen hidle hcarry hshort hzone hinside
  have hptr : fhp ≠ Config.fhpNohdr := by
    rintro rfl
    exact absurd hshort (by simp)
  have hlen : (z.take fhp.toNat).length = fhp.toNat := List.length_take_of_le (hinside.le.trans_eq hzone.symm)
  refine exec_mpduPtr_of_inside spare hopen hptr hzone hinside ?_ ⟨hidle, rfl, rfl⟩
  rw [closeHead_of_carry (s := recordFhp fhp s) _ hidle hcarry,
    resolveCarry_residue (s := recordFhp fhp s) hidle hcarry (by rw [hlen]; exact hshort), hlen]
  rfl

/-- Settles O48: case A1 leaves what `CarryResolved` says, which every nonempty buffer has. -/
theorem splitHeaderIsCompletedAndReleased : Obligations.SplitHeaderIsCompletedAndReleased := by
  unfold Obligations.SplitHeaderIsCompletedAndReleased
  intro spare fhp z s hopen hidle hpos _ hslot hzone hinside hptr hdata buf v
  have hcarry : s.carry ≠ [] := List.length_pos_iff.mp hpos
  have hbuf : buf ≠ [] := List.append_ne_nil_of_left_ne_nil hcarry _
  refine ⟨CarryResolved.exists_of_ne_nil buf s.carryGap v hbuf, ?_⟩
  intro u hresolved
  have hfree : SlotFree (recordFhp fhp s) := SlotFree.of_same (by constructor <;> rfl) ⟨hidle, hslot, hdata⟩
  obtain ⟨hresolve, hu⟩ := resolveCarry_of_resolved hfree hresolved
  exact exec_mpduPtr_of_inside spare hopen hptr hzone hinside
    ((closeHead_of_carry (s := recordFhp fhp s) _ hidle hcarry).trans hresolve) hu

/-! ### Case A2, the head of the packet in flight (R118) -/

/-- After the flush of the packet in flight with `head` appended, nothing is in progress, whatever FHP was recorded. -/
theorem idle_flushSlot_appendPend (head : Bytes) (fhp : BitVec 11) {s : State} (a : Assembly s)
    (hactive : s.activeValid = true) : Idle { flushSlot (appendPend head s) with lastFhp := fhp } :=
  (idle_flushSlot (assembly_appendPend head s a hactive) hactive).of_same (by constructor <;> rfl)

/-- A pointer inside the zone, with a packet in flight: the head is appended, the packet flushed and the zone parsed from
the pointer on. -/
theorem exec_mpduPtr_of_active (spare : BitVec 5) {fhp : BitVec 11} {z : Bytes} {s : State} (a : Assembly s)
    (hopen : s.ended = false) (hactive : s.activeValid = true) (hzone : z.length = Config.zone s.frameSize)
    (hinside : fhp.toNat < Config.zone s.frameSize) (hptr : fhp ≠ Config.fhpNohdr) :
    exec (.mpduPtr spare fhp z) s =
      parseRest (z.drop fhp.toNat) { flushSlot (appendPend (z.take fhp.toNat) s) with lastFhp := fhp } :=
  exec_mpduPtr_of_inside spare hopen hptr hzone hinside (closeHead_recordFhp_of_active _ fhp hactive)
    (idle_flushSlot_appendPend _ fhp a hactive)

/-- Settles O49: the flush of a packet that the head leaves short. -/
theorem shortPacketIsDroppedAtTheNextHeader : Obligations.ShortPacketIsDroppedAtTheNextHeader := by
  unfold Obligations.ShortPacketIsDroppedAtTheNextHeader
  intro spare fhp z s hs hopen hactive hzone hinside hptr hshort
  have hlen : (z.take fhp.toNat).length = fhp.toNat := List.length_take_of_le (hinside.le.trans_eq hzone.symm)
  rw [exec_mpduPtr_of_active spare hs.assembly hopen hactive hzone hinside hptr,
    flushSlot_appendPend_short hs.assembly hactive (by rw [hlen]; exact hshort), hlen]

/-- Settles O50: the flush of the packet with the head appended is the one EOS makes, and a good packet is released. -/
theorem packetIsCompletedByTheHead : Obligations.PacketIsCompletedByTheHead := by
  unfold Obligations.PacketIsCompletedByTheHead
  intro spare fhp z s hs hopen hactive hzone hinside hptr
  have hlen : (z.take fhp.toNat).length = fhp.toNat := List.length_take_of_le (hinside.le.trans_eq hzone.symm)
  have hptrWord := exec_mpduPtr_of_active spare hs.assembly hopen hactive hzone hinside hptr
  constructor
  · intro hexact hgood
    rw [hptrWord, flushSlot_appendPend_good hs.assembly hactive (by rw [hlen]; exact hexact) hgood]
  · intro rsv arg
    have happend := appendPend_eq (z.take fhp.toNat) hs.store
    rw [hlen] at happend
    rw [← happend]
    exact ⟨flushSlot (appendPend (z.take fhp.toNat) s), (sameReader_flushSlot _).ended.trans hopen,
      exec_eos_of_active rsv arg (assembly_appendPend _ s hs.assembly hactive) hopen hactive, hptrWord⟩

/-! ### The pointer past the zone (R121) -/

/-- A pointer past the zone, with a packet in flight: after the event the zone is appended and the packet flushed. -/
theorem exec_mpduPtr_of_active_outside (spare : BitVec 5) {fhp : BitVec 11} {z : Bytes} {s : State} (a : Assembly s)
    (hopen : s.ended = false) (hactive : s.activeValid = true) (hzone : z.length = Config.zone s.frameSize)
    (houtside : Config.zone s.frameSize ≤ fhp.toNat) (hptr : fhp ≠ Config.fhpNohdr) :
    exec (.mpduPtr spare fhp z) s =
      .next { flushSlot (appendPend z (raiseEvent (.fhpOutOfRange fhp) s)) with lastFhp := fhp } :=
  exec_mpduPtr_of_outside_idle spare hopen hptr hzone houtside (closeHead_recordFhp_of_active z fhp hactive)
    (idle_flushSlot_appendPend z fhp (a.of_same (sameAssembly_raiseEvent (.fhpOutOfRange fhp) s)) hactive)

/-- In every state the event comes first and nothing stays in progress. -/
theorem exec_mpduPtr_outside_leaves_nothing (spare : BitVec 5) {fhp : BitVec 11} {z : Bytes} {s : State}
    (hopen : s.ended = false) (hzone : z.length = Config.zone s.frameSize)
    (houtside : Config.zone s.frameSize ≤ fhp.toNat) (hptr : fhp ≠ Config.fhpNohdr) :
    ∃ t l, exec (.mpduPtr spare fhp z) s = .next t ∧ t.outq = s.outq ++ .evt (.fhpOutOfRange fhp) :: l ∧
      t.lastFhp = fhp ∧ t.activeValid = false ∧ t.carry = [] ∧ t.carryGap = false := by
  have hreader := sameReader_closeHead z (recordFhp fhp (raiseEvent (.fhpOutOfRange fhp) s))
  obtain ⟨l, hl⟩ := (accounts_closeHead z (recordFhp fhp (raiseEvent (.fhpOutOfRange fhp) s))).outq_prefix
  refine ⟨_, l, exec_mpduPtr_of_outside spare hopen hptr hzone houtside, ?_, hreader.lastFhp,
    closeHead_activeValid _ _, rfl, rfl⟩
  rw [setCarry_outq, ← hl]
  simp

/-- Settles O51: the zone as the head of each of the cases A0, A2 and A1, after the event. -/
theorem outOfRangePointerTakesTheZoneAsHead : Obligations.OutOfRangePointerTakesTheZoneAsHead := by
  unfold Obligations.OutOfRangePointerTakesTheZoneAsHead
  intro spare fhp z s hopen hzone houtside hptr
  have hraised : StateInv s → Assembly (raiseEvent (.fhpOutOfRange fhp) s) := fun hs =>
    hs.assembly.of_same (sameAssembly_raiseEvent _ s)
  have hactiveWord := fun (hs : StateInv s) (hactive : s.activeValid = true) =>
    exec_mpduPtr_of_active_outside spare hs.assembly hopen hactive hzone houtside hptr
  refine ⟨exec_mpduPtr_outside_leaves_nothing spare hopen hzone houtside hptr, ?_, ?_, ?_, ?_, ?_⟩
  · intro hidle
    refine exec_mpduPtr_of_outside_idle spare hopen hptr hzone houtside ?_ ⟨hidle.active, hidle.carry, hidle.gap⟩
    rw [closeHead_of_nothing (s := recordFhp fhp (raiseEvent (.fhpOutOfRange fhp) s)) z hidle.active hidle.carry,
      discardHead_eq]
    simp
  · intro hs hactive hshort
    rw [hactiveWord hs hactive, flushSlot_appendPend_short (hraised hs) hactive hshort]
    simp only [raiseEvent_outq, List.append_assoc]
    rfl
  · intro hs hactive hexact hgood
    rw [hactiveWord hs hactive, flushSlot_appendPend_good (hraised hs) hactive hexact hgood]
    simp only [raiseEvent_outq, List.append_assoc]
    rfl
  · intro hs hactive rsv arg
    have happend := appendPend_eq z (s := raiseEvent (.fhpOutOfRange fhp) s) hs.store
    refine ⟨flushSlot (appendPend z (raiseEvent (.fhpOutOfRange fhp) s)), (sameReader_flushSlot _).ended.trans hopen, ?_,
      hactiveWord hs hactive⟩
    have heos := exec_eos_of_active rsv arg (assembly_appendPend z _ (hraised hs) hactive) hopen hactive
    exact (congrArg (exec (.eos rsv arg)) happend.symm).trans heos
  · intro hs hidle hcarry v
    refine ⟨CarryResolved.exists_of_ne_nil _ _ v (List.append_ne_nil_of_left_ne_nil hcarry z), ?_⟩
    intro u hresolved
    have hfree : SlotFree (recordFhp fhp (raiseEvent (.fhpOutOfRange fhp) s)) :=
      SlotFree.of_same (by constructor <;> rfl) (hs.assembly.slotFree hidle)
    obtain ⟨hresolve, hu⟩ := resolveCarry_of_resolved hfree hresolved
    exact exec_mpduPtr_of_outside_idle spare hopen hptr hzone houtside
      ((closeHead_of_carry (s := recordFhp fhp (raiseEvent (.fhpOutOfRange fhp) s)) z hidle hcarry).trans hresolve) hu

/-! ### Span tracking (R124) -/

theorem execAll_cons_of_next {i : Instr} (rest : List Instr) {s t : State} (h : exec i s = .next t) :
    execAll (i :: rest) s = execAll rest t := by
  rw [execAll, h]

/-- Settles O52, by induction on the zones: each NOHDR word moves one zone into the store and keeps the invariants, and
EOS flushes the complete packet. -/
theorem spanningPacketIsTheConcatenation : Obligations.SpanningPacketIsTheConcatenation := by
  unfold Obligations.SpanningPacketIsTheConcatenation
  intro spare rsv arg zones
  induction zones with
  | nil =>
    intro s hs hopen hactive hexact hgood
    rw [List.flatten_nil, List.append_nil] at hgood ⊢
    have heos := exec_eos_of_active rsv arg hs.assembly hopen hactive
    rw [flushSlot_good hs.assembly hactive hexact hgood] at heos
    exact ⟨_, execAll_cons_of_next [] heos, by simp, rfl, rfl⟩
  | cons z zs ih =>
    intro s hs hopen hactive hexact hgood
    rw [List.flatten_cons, List.length_append] at hexact
    rw [List.flatten_cons, ← List.append_assoc] at hgood ⊢
    have hword := exec_mpduNohdr_of_active spare z hopen hactive
    obtain ⟨-, hrx, hdata⟩ := appendPend_within (b := z) (s := recordFhp Config.fhpNohdr s) hs.store
      (show s.pendRx.toNat + z.length ≤ s.pendLen.toNat by omega)
    obtain ⟨t, hrun, hrest⟩ := ih (appendPend z (recordFhp Config.fhpNohdr s)) (hs.of_exec hword) hopen hactive
      (by rw [hrx, Nat.add_assoc]; exact hexact) (by rw [hdata]; exact hgood)
    rw [hdata] at hrest
    exact ⟨t, (execAll_cons_of_next _ hword).trans hrun, hrest⟩

/-! ### Packet words while something is in progress (log 4) -/

/-- A packet word's instruction sees a state only as closing an empty head leaves it. -/
theorem exec_decodePh_of_closeHead (h : PacketHeader) (rest : Bytes) {s t : State} (hopen : s.ended = false)
    (hclose : closeHead [] s = t) (hidle : Idle t) : exec (decodePh h rest) s = exec (decodePh h rest) t := by
  have hopen' : t.ended = false := hclose ▸ (sameReader_closeHead [] s).ended.trans hopen
  rw [exec_decodePh, exec_decodePh, unlessEnded_of_open hopen, unlessEnded_of_open hopen', packetStage_eq_parse,
    packetStage_eq_parse, hclose, closeHead_nil t hidle]

/-- Settles O57: an empty head adds nothing to the packet in flight or to CARRY, which are closed as at any header. -/
theorem packetWordClosesWhatIsInProgress : Obligations.PacketWordClosesWhatIsInProgress := by
  unfold Obligations.PacketWordClosesWhatIsInProgress
  intro h rest s hopen hs
  have hflush : s.activeValid = true → exec (decodePh h rest) s = exec (decodePh h rest) (flushSlot s) := fun hactive =>
    exec_decodePh_of_closeHead h rest hopen (by rw [closeHead_of_active [] hactive, appendPend_nil hs.store])
      (idle_flushSlot hs.assembly hactive)
  refine ⟨?_, ?_, ?_⟩
  · intro hactive hshort
    rw [hflush hactive, flushSlot_short hs.assembly hactive hshort]
  · intro hactive rsv arg
    exact ⟨flushSlot s, (sameReader_flushSlot s).ended.trans hopen, (slotFree_flushSlot s).active,
      exec_eos_of_active rsv arg hs.assembly hopen hactive, hflush hactive⟩
  · intro hidle hcarry
    have hshort : s.carry.length + ([] : Bytes).length < 6 := Nat.lt_succ_of_le hs.carryShort
    exact exec_decodePh_of_closeHead h rest hopen
      ((closeHead_of_carry [] hidle hcarry).trans (resolveCarry_residue hidle hcarry hshort)) ⟨hidle, rfl, rfl⟩

end Sys2Proof.Machine
end

section
/-! The statements of 42_packet_parser.md: a packet header word is one pass of the parser over its buffer (R127), by
whether the header is accepted and whether its packet ends inside the buffer (R132 to R142). -/

namespace Sys2Proof.Machine

/-! ### The group table (R31, R134 to R137) -/

/-- The group table is determined by its 2047 bits. -/
theorem eq_of_groupBit_eq {g g' : BitVec 2047} (hbits : ∀ a : BitVec 11, a ≠ Config.apidFill → groupBit g a = groupBit g' a) :
    g = g' := by
  apply BitVec.eq_of_getLsbD_eq
  intro k hk
  have hnat : (BitVec.ofNat 11 k).toNat = k := by rw [BitVec.toNat_ofNat]; omega
  have hfill : BitVec.ofNat 11 k ≠ Config.apidFill := fun heq => by
    rw [heq] at hnat
    exact hk.ne' hnat
  have hbit := hbits (BitVec.ofNat 11 k) hfill
  rwa [groupBit, groupBit, hnat] at hbit

theorem setGroupBit_of_groupBit_eq {g : BitVec 2047} {a : BitVec 11} {v : Bool} (hbit : groupBit g a = v) :
    setGroupBit g a v = g := by
  refine eq_of_groupBit_eq fun b hb => ?_
  rw [groupBit_setGroupBit g a b v hb]
  split
  · next hab => rw [← hab, hbit]
  · rfl

/-- After an accepted header its group is open if the segment is a FIRST or a CONT, and every other group as it was. -/
theorem groupBit_groupsAfter {g : BitVec 2047} {h : PacketHeader} (ha : Accepted g h) (a : BitVec 11)
    (hfill : a ≠ Config.apidFill) :
    groupBit (groupsAfter g h) a = if a = h.apid then decide (h.sf = 0#2 ∨ h.sf = 1#2) else groupBit g a := by
  obtain ⟨-, hneeds⟩ := ha
  by_cases hcont : h.sf = 0#2
  · have hgroup : groupBit g h.apid = true := hneeds (.inl hcont)
    rw [groupsAfter, if_pos hcont]
    split
    · next hsame => simp [hsame, hgroup, hcont]
    · rfl
  · rw [groupsAfter, if_neg hcont, groupBit_setGroupBit g h.apid a _ hfill]
    simp only [hcont, false_or, eq_comm]

/-! ### The class of a header word (R85) -/

section
variable (ver : BitVec 3) (type shf : BitVec 1) (apid : BitVec 11) (cnt : BitVec 14) (lenField : BitVec 16) (rest : Bytes)

theorem decodePh_fill (sf : BitVec 2) :
    decodePh ⟨ver, type, shf, Config.apidFill, sf, cnt, lenField⟩ rest = .phFill ver type shf sf cnt lenField rest := rfl

variable {apid} (hapid : apid ≠ Config.apidFill)
include hapid

theorem decodePh_cont :
    decodePh ⟨ver, type, shf, apid, 0#2, cnt, lenField⟩ rest = .phCont ver type shf apid cnt lenField rest := by
  rw [decodePh, classOf_of_ne_fill hapid]
  rfl

theorem decodePh_first :
    decodePh ⟨ver, type, shf, apid, 1#2, cnt, lenField⟩ rest = .phFirst ver type shf apid cnt lenField rest := by
  rw [decodePh, classOf_of_ne_fill hapid]
  rfl

theorem decodePh_last :
    decodePh ⟨ver, type, shf, apid, 2#2, cnt, lenField⟩ rest = .phLast ver type shf apid cnt lenField rest := by
  rw [decodePh, classOf_of_ne_fill hapid]
  rfl

theorem decodePh_standalone :
    decodePh ⟨ver, type, shf, apid, 3#2, cnt, lenField⟩ rest = .phStandalone ver type shf apid cnt lenField rest := by
  rw [decodePh, classOf_of_ne_fill hapid]
  rfl

end

/-- The four classes a packet value can come from: the instruction, its SF, whether its group must be open, and whether
its group is open after it (R134 to R137). -/
def segmentClasses (ver : BitVec 3) (type shf : BitVec 1) (apid : BitVec 11) (cnt : BitVec 14) (lenField : BitVec 16)
    (rest : Bytes) : List (Instr × BitVec 2 × Bool × Bool) :=
  [(.phFirst ver type shf apid cnt lenField rest, 1#2, false, true),
    (.phStandalone ver type shf apid cnt lenField rest, 3#2, false, false),
    (.phCont ver type shf apid cnt lenField rest, 0#2, true, true),
    (.phLast ver type shf apid cnt lenField rest, 2#2, true, false)]

/-- Each class is the instruction of its header, and its two flags are functions of SF. -/
theorem eq_decodePh_of_mem_segmentClasses {ver : BitVec 3} {type shf : BitVec 1} {apid : BitVec 11} {cnt : BitVec 14}
    {lenField : BitVec 16} {rest : Bytes} {i : Instr} {sf : BitVec 2} {needsOpen opened : Bool}
    (hapid : apid ≠ Config.apidFill)
    (hclass : (i, sf, needsOpen, opened) ∈ segmentClasses ver type shf apid cnt lenField rest) :
    i = decodePh ⟨ver, type, shf, apid, sf, cnt, lenField⟩ rest ∧ needsOpen = decide (sf = 0#2 ∨ sf = 2#2) ∧
      opened = decide (sf = 0#2 ∨ sf = 1#2) := by
  simp only [segmentClasses, List.mem_cons, List.not_mem_nil, or_false, Prod.mk.injEq] at hclass
  rcases hclass with ⟨rfl, rfl, rfl, rfl⟩ | ⟨rfl, rfl, rfl, rfl⟩ | ⟨rfl, rfl, rfl, rfl⟩ | ⟨rfl, rfl, rfl, rfl⟩
  · exact ⟨(decodePh_first ver type shf cnt lenField rest hapid).symm, rfl, rfl⟩
  · exact ⟨(decodePh_standalone ver type shf cnt lenField rest hapid).symm, rfl, rfl⟩
  · exact ⟨(decodePh_cont ver type shf cnt lenField rest hapid).symm, rfl, rfl⟩
  · exact ⟨(decodePh_last ver type shf cnt lenField rest hapid).symm, rfl, rfl⟩

/-- A segment of one of the four classes, in an open group where its class needs one, is accepted, and leaves its group
as its class says and the others as they were (R134 to R137). -/
theorem accepted_of_mem_segmentClasses {ver : BitVec 3} {type shf : BitVec 1} {apid : BitVec 11} {cnt : BitVec 14}
    {lenField : BitVec 16} {rest : Bytes} {i : Instr} {sf : BitVec 2} {needsOpen opened : Bool} {g : BitVec 2047}
    (hapid : apid ≠ Config.apidFill)
    (hclass : (i, sf, needsOpen, opened) ∈ segmentClasses ver type shf apid cnt lenField rest)
    (hneeds : needsOpen = true → groupBit g apid = true) :
    Accepted g ⟨ver, type, shf, apid, sf, cnt, lenField⟩ ∧
      ∀ a : BitVec 11, a ≠ Config.apidFill →
        groupBit (groupsAfter g ⟨ver, type, shf, apid, sf, cnt, lenField⟩) a =
          if a = apid then opened else groupBit g a := by
  obtain ⟨-, rfl, rfl⟩ := eq_decodePh_of_mem_segmentClasses hapid hclass
  have haccepted : Accepted g ⟨ver, type, shf, apid, sf, cnt, lenField⟩ := ⟨hapid, fun hsf => hneeds (decide_eq_true hsf)⟩
  exact ⟨haccepted, groupBit_groupsAfter haccepted⟩

/-! ### What is done of a segment -/

theorem segmentDone_accepted {h : PacketHeader} {s : State} (ha : Accepted s.groupOpen h) (d : Bytes) (fd : Bool) :
    segmentDone h d fd s = delivered h d fd { s with groupOpen := groupsAfter s.groupOpen h } := if_pos ha

/-- A fill packet leaves nothing (R132). -/
theorem segmentDone_fill {h : PacketHeader} (hfill : h.apid = Config.apidFill) (d : Bytes) (fd : Bool) (s : State) :
    segmentDone h d fd s = s := by
  rw [segmentDone, if_neg (fun ha => ha.1 hfill), if_pos hfill]

theorem not_accepted_of_closed {g : BitVec 2047} {h : PacketHeader} (hsf : h.sf = 0#2 ∨ h.sf = 2#2)
    (hclosed : groupBit g h.apid = false) : ¬ Accepted g h := by
  rintro ⟨-, hneeds⟩
  simp [hneeds hsf] at hclosed

/-- A CONT or LAST of a closed group leaves its report (R138). -/
theorem segmentDone_orphan {h : PacketHeader} {s : State} (hapid : h.apid ≠ Config.apidFill) (hsf : h.sf = 0#2 ∨ h.sf = 2#2)
    (hclosed : groupBit s.groupOpen h.apid = false) (d : Bytes) (fd : Bool) :
    segmentDone h d fd s = { s with
      outq := s.outq ++ [.evt (.orphanSegment h.apid h.sf h.cnt (BitVec.ofNat 17 (h.lenField.toNat + 1)))] } := by
  rw [segmentDone, if_neg (not_accepted_of_closed hsf hclosed), if_neg hapid]

/-- A complete packet with a right CRC is released (R161 to R163). -/
theorem delivered_good {h : PacketHeader} {d : Bytes} (hgood : GoodPacket h d) (fd : Bool) (s : State) :
    delivered h d fd s = { s with
      cntSaved := satAdd s.cntSaved 1, outq := s.outq ++ [.pkt (goodRecord h d fd)] } := by
  obtain ⟨-, hlen, hfield⟩ := hgood
  rw [delivered, if_neg (by omega), if_pos ⟨hfield.trailer, hfield.crc⟩]

/-- A good STANDALONE packet of a closed group is released and leaves the group table as it was (R135). -/
theorem segmentDone_goodStandalone {h : PacketHeader} {d : Bytes} {s : State} (hgood : GoodPacket h d) (hsf : h.sf = 3#2)
    (hclosed : groupBit s.groupOpen h.apid = false) (fd : Bool) :
    segmentDone h d fd s = { s with
      cntSaved := satAdd s.cntSaved 1, outq := s.outq ++ [.pkt (goodRecord h d fd)] } := by
  have haccepted : Accepted s.groupOpen h := ⟨hgood.apid, by simp [hsf]⟩
  have hgroups : groupsAfter s.groupOpen h = s.groupOpen := by
    rw [groupsAfter, hsf]
    exact setGroupBit_of_groupBit_eq hclosed
  rw [segmentDone_accepted haccepted, hgroups, delivered_good hgood]

/-! ### A packet header word with nothing in progress (R127) -/

section
variable {h : PacketHeader} {s : State} (hopen : s.ended = false) (hidle : Idle s)
include hopen hidle

theorem exec_decodePh_of_idle (rest : Bytes) :
    exec (decodePh h rest) s = .next (parse (headerBytes h ++ rest) false s) := by
  rw [exec_decodePh, unlessEnded_of_open hopen, packetStage_eq_parse, closeHead_nil s hidle]

/-- The packet ends inside the buffer: it is done, and the parse goes on at the byte after it (R140, R141). -/
theorem exec_decodePh_of_inside {d rest : Bytes} (hlen : d.length = h.lenField.toNat + 1) (hrest : rest ≠ [])
    (hfits : RestFits s.frameSize (d ++ rest)) :
    exec (decodePh h (d ++ rest)) s = parseRest rest (segmentDone h d false s) := by
  obtain ⟨hassembly, hreader⟩ := segmentDone_same h d false s
  have hbuf : rest.length ≤ Config.zone (segmentDone h d false s).frameSize + 5 := by
    rw [RestFits, List.length_append] at hfits
    rw [hreader.frameSize]
    omega
  have hbytes : headerBytes h ++ (d ++ rest) = packetBytes h d ++ rest := (List.append_assoc _ _ _).symm
  rw [exec_decodePh_of_idle hopen hidle, hbytes, parse_packetBytes h d rest false s hlen hrest,
    parseRest_eq_parse rest _ (hidle.of_same hassembly) (hreader.ended.trans hopen) hbuf]

/-- A header that is not accepted leaves the same `t` whatever bytes its packet has; the parse goes on after them, if
they end inside the buffer (R132, R138, R140). -/
theorem exec_decodePh_of_rejected {rest : Bytes} {t : State} (hfits : RestFits s.frameSize rest)
    (hrejected : ¬ Accepted s.groupOpen h) (hdone : ∀ d, segmentDone h d false s = t) :
    exec (decodePh h rest) s =
      if rest.length ≤ h.lenField.toNat + 1 then .next t else parseRest (rest.drop (h.lenField.toNat + 1)) t := by
  split
  · next hreaches =>
    rw [exec_decodePh_of_idle hopen hidle,
      (parse_headerBytes h rest false s hreaches hidle.carry hidle.gap).2 hrejected, hdone]
  · next hends =>
    have hsplit := List.take_append_drop (h.lenField.toNat + 1) rest
    have hlen : (rest.take (h.lenField.toNat + 1)).length = h.lenField.toNat + 1 :=
      List.length_take_of_le (Nat.le_of_not_le hends)
    have hrest : rest.drop (h.lenField.toNat + 1) ≠ [] := fun hnil => hends (List.drop_eq_nil_iff.mp hnil)
    have hinside := exec_decodePh_of_inside hopen hidle hlen hrest (by rw [hsplit]; exact hfits)
    rwa [hsplit, hdone] at hinside

end

/-! ### The statements about one header word -/

/-- Settles O53: a fill header is not accepted and leaves nothing. -/
theorem fillIsSkippedSilently : Obligations.FillIsSkippedSilently := by
  unfold Obligations.FillIsSkippedSilently
  intro ver type shf sf cnt lenField rest s hopen hidle hfits
  rw [← decodePh_fill]
  exact exec_decodePh_of_rejected hopen hidle hfits (fun ha => ha.1 rfl) (fun d => segmentDone_fill rfl d false s)

/-- Settles O54: a CONT or LAST of a closed group is not accepted and leaves its report. -/
theorem orphanIsReportedAndSkipped : Obligations.OrphanIsReportedAndSkipped := by
  unfold Obligations.OrphanIsReportedAndSkipped
  intro ver type shf apid cnt lenField rest s i sf hopen hidle hfits hapid hclosed hclass
  have hword : i = decodePh ⟨ver, type, shf, apid, sf, cnt, lenField⟩ rest ∧ (sf = 0#2 ∨ sf = 2#2) := by
    simp only [List.mem_cons, List.not_mem_nil, or_false, Prod.mk.injEq] at hclass
    rcases hclass with ⟨rfl, rfl⟩ | ⟨rfl, rfl⟩
    · exact ⟨(decodePh_cont ver type shf cnt lenField rest hapid).symm, .inl rfl⟩
    · exact ⟨(decodePh_last ver type shf cnt lenField rest hapid).symm, .inr rfl⟩
  obtain ⟨rfl, hsf⟩ := hword
  exact exec_decodePh_of_rejected hopen hidle hfits (not_accepted_of_closed hsf hclosed)
    (fun d => segmentDone_orphan hapid hsf hclosed d false)

/-- Settles O55: the parser's last pass makes the packet of an accepted header the packet in flight. -/
theorem acceptedHeaderGoesInFlight : Obligations.AcceptedHeaderGoesInFlight := by
  unfold Obligations.AcceptedHeaderGoesInFlight
  intro ver type shf apid cnt lenField rest s i sf needsOpen opened hopen hidle hapid hreaches hclass hneeds
  obtain ⟨rfl, -, -⟩ := eq_decodePh_of_mem_segmentClasses hapid hclass
  obtain ⟨haccepted, hgroups⟩ := accepted_of_mem_segmentClasses hapid hclass hneeds
  refine ⟨_, ?_, hgroups⟩
  rw [exec_decodePh_of_idle hopen hidle,
    (parse_headerBytes _ rest false s hreaches hidle.carry hidle.gap).1 haccepted]

/-- Settles O56: the packet of an accepted header that ends inside the buffer is done as `delivered` says. -/
theorem completePacketInBufferIsReleased : Obligations.CompletePacketInBufferIsReleased := by
  unfold Obligations.CompletePacketInBufferIsReleased
  intro ver type shf apid cnt lenField d rest s i sf needsOpen opened hopen hidle hfits hrest hapid hlen hclass hneeds
  obtain ⟨rfl, -, -⟩ := eq_decodePh_of_mem_segmentClasses hapid hclass
  obtain ⟨haccepted, hgroups⟩ := accepted_of_mem_segmentClasses hapid hclass hneeds
  refine ⟨_, ?_, hgroups⟩
  rw [exec_decodePh_of_inside hopen hidle hlen hrest hfits, segmentDone_accepted haccepted]

/-! ### Any number of packets (R141, R164) -/

/-- Parse releases good STANDALONE packets of closed groups one by one and keeps the bytes after them in CARRY. -/
theorem parse_goodStandalones {last : Bytes} (hne : last ≠ []) (hshort : last.length < 6)
    (packets : List (PacketHeader × Bytes)) (s : State) (hgap : s.carryGap = false)
    (hpackets : ∀ p ∈ packets, GoodPacket p.1 p.2 ∧ p.1.sf = 3#2 ∧ groupBit s.groupOpen p.1.apid = false) :
    parse ((packets.map fun p => packetBytes p.1 p.2).flatten ++ last) false s = { s with
      carry := last, cntSaved := satAdd s.cntSaved packets.length
      outq := s.outq ++ packets.map fun p => .pkt (goodRecord p.1 p.2 false) } := by
  induction packets generalizing s with
  | nil =>
    simp only [List.map_nil, List.flatten_nil, List.nil_append, List.length_nil, satAdd_zero, List.append_nil]
    rw [parse_short last false s hshort, Bool.false_and, ← hgap]
    rfl
  | cons p ps ih =>
    obtain ⟨⟨hgood, hsf, hclosed⟩, hrest⟩ := List.forall_mem_cons.mp hpackets
    rw [List.map_cons, List.flatten_cons, List.append_assoc,
      parse_packetBytes p.1 p.2 _ false s hgood.len (List.append_ne_nil_of_right_ne_nil _ hne),
      segmentDone_goodStandalone hgood hsf hclosed]
    refine (ih _ ?_ ?_).trans ?_
    · exact hgap
    · exact hrest
    · simp only [satAdd_satAdd, List.append_assoc, List.length_cons, Nat.add_comm 1]
      rfl

/-- Settles O58: with FHP = 0 and nothing in progress the whole zone is parsed, packet by packet. -/
theorem backToBackPacketsAreReleasedInOrder : Obligations.BackToBackPacketsAreReleasedInOrder := by
  unfold Obligations.BackToBackPacketsAreReleasedInOrder
  intro spare packets last s hopen hidle hpos hshort hpackets hzone
  have hinside : (0#11 : BitVec 11).toNat < Config.zone s.frameSize := by
    rw [← hzone, List.length_append]
    exact Nat.lt_add_left _ hpos
  have hrecorded : Idle (recordFhp 0#11 s) := ⟨hidle.active, hidle.carry, hidle.gap⟩
  have hword := exec_mpduPtr_of_inside spare hopen (by decide) hzone hinside (closeHead_nil _ hrecorded) hrecorded
  have hbuf : ((packets.map fun p => packetBytes p.1 p.2).flatten ++ last).length ≤
      Config.zone (recordFhp 0#11 s).frameSize + 5 := hzone.le.trans (Nat.le_add_right _ 5)
  exact hword.trans ((parseRest_eq_parse _ _ hrecorded hopen hbuf).trans (congrArg _
    (parse_goodStandalones (List.length_pos_iff.mp hpos) (Nat.lt_succ_of_le hshort) packets _ hidle.gap hpackets)))

end Sys2Proof.Machine
end

section
/-! The statements of 43_crc16.md: the recurrence of the validator is the bitwise CRC (R146, R152), and a packet without a
trailer fails it (R153). -/

namespace Sys2Proof.Machine

/-! ### The recurrence against the bitwise form (R152)

Four shifts move the top nibble out and add it back at the polynomial's low powers 0, 5 and 12: the feedback of bit 12
reaches the top only after the fourth shift. Two such halves make a byte, and the nibble fed back by the second half has
met that of the first: this is the term `x ^ (x >> 4)` of the recurrence. -/

theorem getElem_crcShift_zero (r : BitVec 16) : (crcShift r)[0] = r[15] := by
  have hmsb : r.msb = r[15] := BitVec.msb_eq_getLsbD_last r
  cases htop : r[15] <;> simp [crcShift, hmsb, htop]

theorem getElem_crcShift_succ (r : BitVec 16) (i : Nat) (hi : i + 1 < 16) :
    (crcShift r)[i + 1] = (r[i] ^^ (r[15] && (0x1021#16)[i + 1])) := by
  have hmsb : r.msb = r[15] := BitVec.msb_eq_getLsbD_last r
  cases htop : r[15] <;> simp [crcShift, hmsb, htop]

theorem crcShift_four (r : BitVec 16) :
    Nat.repeat crcShift 4 r = (r <<< 4) ^^^ (r >>> 12) ^^^ ((r >>> 12) <<< 5) ^^^ ((r >>> 12) <<< 12) := by
  apply BitVec.eq_of_getLsbD_eq
  intro i hi
  simp only [Nat.repeat]
  interval_cases i <;> simp [getElem_crcShift_zero, getElem_crcShift_succ]

/-- The bits of an accumulator word, by the byte they stand in. -/
theorem getElem_append_byte (m l : Byte) (i : Nat) (hi : i < 16) :
    (m ++ l : BitVec 16)[i] = if i < 8 then l.getLsbD i else m.getLsbD (i - 8) :=
  BitVec.getLsbD_append

/-- The two accumulators as the 16-bit register of the bitwise form (R148). -/
def CrcAcc.word (acc : CrcAcc) : BitVec 16 := acc.msb ++ acc.lsb

theorem crc16_eq_word (d : Bytes) : crc16 d = (d.foldl crcByte crcInit).word := rfl

/-- One byte of the recurrence is eight shifts of the register (R146, R152). -/
theorem crcBitwiseByte_word (acc : CrcAcc) (c : Byte) : crcBitwiseByte acc.word c = (crcByte acc c).word := by
  obtain ⟨l, m⟩ := acc
  have hentered : (m ++ l) ^^^ (c ++ 0#8) = (c ^^^ m) ++ l := by
    rw [BitVec.xor_append, BitVec.xor_zero, BitVec.xor_comm m]
  have hhalves (r : BitVec 16) : Nat.repeat crcShift 8 r = Nat.repeat crcShift 4 (Nat.repeat crcShift 4 r) := rfl
  simp only [CrcAcc.word, crcBitwiseByte, crcByte, crcMix, hentered, hhalves, crcShift_four]
  generalize c ^^^ m = x
  ext i hi
  interval_cases i <;> simp [getElem_append_byte]

/-- Settles O60: the register form commutes with every byte, so with the fold over all of them. -/
theorem crcRecurrenceIsTheBitwiseCrc : Obligations.CrcRecurrenceIsTheBitwiseCrc := by
  unfold Obligations.CrcRecurrenceIsTheBitwiseCrc
  intro d
  have hinit : crcInit.word = 0xFFFF#16 := rfl
  rw [crc16_eq_word, crcBitwise, ← hinit]
  exact (List.foldl_hom CrcAcc.word crcBitwiseByte_word).symm

/-! ### A packet that fails the CRC (R160, R161) -/

/-- The records of a packet that has all its bytes and fails the CRC: LONG if more came, the mismatch, and the record
itself if KEEP_CORRUPT asks for it (R157, R160, R161). -/
theorem flushRecords_failed {p : Packet} (keep : Bool) (hapid : p.apid ≠ Config.apidFill)
    (hreached : p.len.toNat ≤ p.rx.toNat) (hfailed : (verdict p).ok = false) :
    flushRecords p keep = (if p.len.toNat < p.rx.toNat then [.evt (sizeEvent p .long)] else []) ++
      .evt (crcEvent p (verdict p) keep) ::
        (if keep then [.pkt (pktRecord p (verdict p) (decide (p.len.toNat < p.rx.toNat)))] else []) := by
  rw [flushRecords, if_neg hapid, if_neg (by omega), hfailed]
  simp

/-- The flush of a packet in the slot that has all its bytes and fails the CRC: counted as a failure, and as saved if
KEEP_CORRUPT releases it (R160 to R162). -/
theorem flushSlot_failed {s : State} (a : Assembly s) (hactive : s.activeValid = true)
    (hreached : s.pendLen.toNat ≤ s.pendRx.toNat) (hfailed : (verdict (slotPacket s)).ok = false) :
    flushSlot s = { releaseSlot s with
      cntCrcfail := satAdd s.cntCrcfail 1
      cntSaved := if s.keepCorrupt then satAdd s.cntSaved 1 else s.cntSaved
      outq := s.outq ++ ((if s.pendLen.toNat < s.pendRx.toNat then [slotSizeEvent s s.pendRx .long] else []) ++
        .evt (crcEvent (slotPacket s) (verdict (slotPacket s)) s.keepCorrupt) ::
          (if s.keepCorrupt then [.pkt (pktRecord (slotPacket s) (verdict (slotPacket s))
            (decide (s.pendLen.toNat < s.pendRx.toNat)))] else [])) } := by
  have hrecords := flushRecords_failed (p := slotPacket s) s.keepCorrupt (a.notFill hactive) hreached hfailed
  have hsaved : total savedBy (flushRecords (slotPacket s) s.keepCorrupt) = if s.keepCorrupt then 1 else 0 := by
    rw [hrecords, total_append, total_cons]
    split <;> split <;> rfl
  have hcounted : total failedBy (flushRecords (slotPacket s) s.keepCorrupt) = 1 := by
    rw [hrecords, total_append, total_cons]
    split <;> split <;> rfl
  rw [flushSlot, flush_eq_absorb, releaseSlot_keepCorrupt, absorb, hsaved, hcounted, hrecords]
  cases s.keepCorrupt
  · simp only [Bool.false_eq_true, if_false, satAdd_zero]
    rfl
  · rfl

/-! ### A packet without a trailer (R153) -/

/-- The verdict on a packet with no room for a trailer: the validator is not called (R153). -/
theorem verdict_noTrailer {p : Packet} (hlen : p.len.toNat = 1) :
    verdict p = { payload := [], crcRx := 0#16, crcCalc := config.crc16Fn [], noTrailer := true, ok := false } := by
  rw [verdict, hlen]
  rfl

/-- Settles O43: with L = 1 the verdict is a failure whatever came, and the flush is that of a failed packet. -/
theorem packetWithoutTrailerFailsTheCrc : Obligations.PacketWithoutTrailerFailsTheCrc := by
  unfold Obligations.PacketWithoutTrailerFailsTheCrc
  intro rsv arg s hs hopen hactive hlen hreached size event
  have hverdict := verdict_noTrailer (p := slotPacket s) hlen
  have hflush := flushSlot_failed hs.assembly hactive (hlen ▸ hreached) (by rw [hverdict])
  rw [hverdict, hlen] at hflush
  have hevent : .evt (crcEvent (slotPacket s) ⟨[], 0#16, config.crc16Fn [], true, false⟩ s.keepCorrupt) = event := rfl
  have hrecord : pktRecord (slotPacket s) ⟨[], 0#16, config.crc16Fn [], true, false⟩ (decide (1 < s.pendRx.toNat)) =
      { slotRecord s [] false (decide (1 < s.pendRx.toNat)) with
        payload := [], crcRx := 0#16, crcCalc := config.crc16Fn [] } := rfl
  rw [exec_eos_of_active rsv arg hs.assembly hopen hactive, hflush, hevent, hrecord]
  constructor
  · intro hkeep
    simp [hkeep, size]
  · intro hkeep
    simp [hkeep, size]

end Sys2Proof.Machine
end

section
/-! The statements of 44_packet_sink.md: what the flush of the packet in the slot leaves at the end of the stream (R154 to
R163), and every PKT record of a step as R163 describes it. -/

namespace Sys2Proof.Machine

/-! ### A packet in the slot with all its bytes (R157, R158) -/

/-- Once L bytes have come, the slot's DATA is the data field, already trimmed to L (R30, R158). -/
theorem length_slotPacket_data_of_reached {s : State} (hwf : Memory.wf s) (hreached : s.pendLen.toNat ≤ s.pendRx.toNat) :
    (slotPacket s).data.length = (slotPacket s).len.toNat := by
  rw [slotPacket_data s hwf, hwf.1, storedCount, Nat.min_eq_right hreached]
  rfl

/-! ### A packet with a right CRC (R157, R161, R162) -/

/-- The records of a packet that has all its bytes and a right CRC: LONG if more came, and the record itself. -/
theorem flushRecords_passed {p : Packet} (keep : Bool) (hapid : p.apid ≠ Config.apidFill)
    (hreached : p.len.toNat ≤ p.rx.toNat) (hpassed : (verdict p).ok = true) :
    flushRecords p keep = (if p.len.toNat < p.rx.toNat then [.evt (sizeEvent p .long)] else []) ++
      [.pkt (pktRecord p (verdict p) (decide (p.len.toNat < p.rx.toNat)))] := by
  rw [flushRecords, if_neg hapid, if_neg (by omega), hpassed]
  simp

/-- The flush of a packet in the slot that has all its bytes and a right CRC: released once, and counted as saved. -/
theorem flushSlot_passed {s : State} (a : Assembly s) (hactive : s.activeValid = true)
    (hreached : s.pendLen.toNat ≤ s.pendRx.toNat) (hgood : GoodField s.pendData) :
    flushSlot s = { releaseSlot s with
      cntSaved := satAdd s.cntSaved 1
      outq := s.outq ++ ((if s.pendLen.toNat < s.pendRx.toNat then [slotSizeEvent s s.pendRx .long] else []) ++
        [.pkt (slotRecord s s.pendData true (decide (s.pendLen.toNat < s.pendRx.toNat)))]) } := by
  have hdata := slotPacket_data s a.store
  have hverdict := verdict_good (length_slotPacket_data_of_reached a.store hreached) (by rwa [hdata])
  have hrecords := flushRecords_passed (p := slotPacket s) s.keepCorrupt (a.notFill hactive) hreached (by rw [hverdict])
  have hsaved : total savedBy (flushRecords (slotPacket s) s.keepCorrupt) = 1 := by
    rw [hrecords, total_append]
    split <;> rfl
  have hcounted : total failedBy (flushRecords (slotPacket s) s.keepCorrupt) = 0 := by
    rw [hrecords, total_append]
    split <;> rfl
  rw [flushSlot, flush_eq_absorb, releaseSlot_keepCorrupt, absorb, hsaved, hcounted, satAdd_zero, hrecords, hverdict,
    hdata]
  rfl

/-! ### A packet with a wrong CRC (R159, R160) -/

/-- The verdict on a complete data field with a trailer that is not the CRC of the bytes before it. -/
theorem verdict_wrong {p : Packet} (hlen : p.data.length = p.len.toNat) (htrailer : 2 ≤ p.len.toNat)
    (hwrong : be16 p.data (p.data.length - 2) ≠ config.crc16Fn (p.data.take (p.data.length - 2))) :
    verdict p = {
      payload := p.data.take (p.data.length - 2)
      crcRx := be16 p.data (p.data.length - 2)
      crcCalc := config.crc16Fn (p.data.take (p.data.length - 2))
      noTrailer := false
      ok := false } := by
  unfold verdict
  rw [if_pos htrailer, ← hlen]
  simp [slice_zero, validateCrc, hwrong.symm]

/-! ### EOS with a packet in flight (R106) -/

/-- Settles O40: the flush of a short packet appends the size event alone. -/
theorem shortPacketIsDropped : Obligations.ShortPacketIsDropped := by
  unfold Obligations.ShortPacketIsDropped
  intro rsv arg s hs hopen hactive hshort
  rw [exec_eos_of_active rsv arg hs.assembly hopen hactive, flushSlot_short hs.assembly hactive hshort]
  simp

/-- Settles O41: the flush of a packet that passes, then the report with the new CNT_SAVED. -/
theorem goodPacketIsReleasedTrimmed : Obligations.GoodPacketIsReleasedTrimmed := by
  unfold Obligations.GoodPacketIsReleasedTrimmed
  intro rsv arg s hs hopen hactive hreached hgood
  rw [exec_eos_of_active rsv arg hs.assembly hopen hactive, flushSlot_passed hs.assembly hactive hreached hgood]
  simp

/-- Settles O42: the flush of a packet that fails, with the verdict of a trailer that is wrong. -/
theorem crcMismatchIsCountedAndKeptOnlyIfAsked : Obligations.CrcMismatchIsCountedAndKeptOnlyIfAsked := by
  unfold Obligations.CrcMismatchIsCountedAndKeptOnlyIfAsked
  intro rsv arg s hs hopen hactive hreached htrailer hwrong size event
  have hdata := slotPacket_data s hs.store
  have hverdict := verdict_wrong (length_slotPacket_data_of_reached hs.store hreached) htrailer (by rwa [hdata])
  have hflush := flushSlot_failed hs.assembly hactive hreached (by rw [hverdict])
  rw [hdata] at hverdict
  have hevent : .evt (crcEvent (slotPacket s) (verdict (slotPacket s)) s.keepCorrupt) = event := by
    rw [hverdict]
    rfl
  have hrecord : pktRecord (slotPacket s) (verdict (slotPacket s)) (decide (s.pendLen.toNat < s.pendRx.toNat)) =
      slotRecord s s.pendData false (decide (s.pendLen.toNat < s.pendRx.toNat)) := by
    rw [hverdict]
    rfl
  rw [exec_eos_of_active rsv arg hs.assembly hopen hactive, hflush, hevent, hrecord]
  constructor
  · intro hkeep
    simp [hkeep, size]
  · intro hkeep
    simp [hkeep, size]

end Sys2Proof.Machine
end

section
/-! PKT records under every operation (R163): each appends only well-formed ones, so OUTQ stays well formed. Flush alone
appends PKT records, and it is given a packet value that holds min(RX, L) bytes: by the parser's construction, or by the
store invariant INV3 (R42). -/

namespace Sys2Proof.Machine

/-! ### Lists of records -/

theorem RecordsOk.append {l m : List Record} (hl : RecordsOk l) (hm : RecordsOk m) : RecordsOk (l ++ m) := by
  intro r hr
  obtain hr | hr := List.mem_append.mp hr
  · exact hl r hr
  · exact hm r hr

theorem recordsOk_evt (e : Event) : RecordsOk [.evt e] := by
  intro r hr
  cases List.mem_singleton.mp hr

theorem recordsOk_rdata (v : Word) : RecordsOk [.rdata v] := by
  intro r hr
  cases List.mem_singleton.mp hr

theorem recordsOk_counterRecords (ctr : BitVec 24) (s : State) : RecordsOk (counterRecords ctr s) := by
  intro r hr
  cases isCtrEvent_of_mem_counterRecords _ hr

theorem recordsOk_raiseEvent (e : Event) {s : State} (hok : RecordsOk s.outq) : RecordsOk (raiseEvent e s).outq :=
  hok.append (recordsOk_evt e)

/-! ### Flush (R163) -/

theorem recordsOk_flush {p : Packet} (hheld : p.data.length = min p.rx.toNat p.len.toNat) {s : State}
    (hok : RecordsOk s.outq) : RecordsOk (flush p s).outq := by
  rw [flush_eq_absorb]
  exact hok.append (flushRecords_ok p s.keepCorrupt hheld)

theorem recordsOk_flushSlot {s : State} (hwf : Memory.wf s) (hok : RecordsOk s.outq) : RecordsOk (flushSlot s).outq := by
  have hheld : (slotPacket s).data.length = min s.pendRx.toNat s.pendLen.toNat := by
    rw [slotPacket_data s hwf, hwf.1, storedCount]
  exact recordsOk_flush (p := slotPacket s) (s := releaseSlot s) hheld hok

/-! ### The parser (R127) -/

/-- Of a segment's acceptance only the orphan is reported (R138). -/
theorem recordsOk_segmentAccept (h : PacketHeader) (rest : Bytes) (fd : Bool) {s : State} (hok : RecordsOk s.outq) :
    RecordsOk (segmentAccept h rest fd s).2.outq := by
  obtain ⟨he, -⟩ | ⟨he, -⟩ | ⟨he, -⟩ | ⟨he, -⟩ | ⟨he, -⟩ := segmentAccept_cases h rest fd s <;> rw [he]
  case inr.inl => exact recordsOk_raiseEvent _ hok
  all_goals exact hok

/-- A packet that ends inside the buffer is flushed with the bytes its header declares (R139, R141). -/
theorem recordsOk_flushOpt_segmentAccept (h : PacketHeader) (rest : Bytes) (fd : Bool) {s : State}
    (hok : RecordsOk s.outq) :
    RecordsOk (flushOpt (segmentAccept h rest fd s).1 (segmentAccept h rest fd s).2).outq := by
  have haccept := recordsOk_segmentAccept h rest fd hok
  cases hp : (segmentAccept h rest fd s).1 with
  | none => exact haccept
  | some p =>
    obtain ⟨rfl, -⟩ := segmentAccept_some h rest fd s p hp
    exact recordsOk_flush (packetOf_holds h rest fd) haccept

theorem makeActiveOpt_outq (p : Option Packet) (s : State) : (makeActiveOpt p s).outq = s.outq := by cases p <;> rfl

theorem recordsOk_parse (buf : Bytes) (g : Bool) {s : State} (hok : RecordsOk s.outq) :
    RecordsOk (parse buf g s).outq := by
  revert hok
  refine parse_induction (P := fun _ _ s t => RecordsOk s.outq → RecordsOk t.outq) ?short ?stop ?next buf g s
  case short =>
    intro buf g s _ hok
    exact hok
  case stop =>
    intro buf g s _ _ hok
    rw [setCarry_outq, makeActiveOpt_outq]
    exact recordsOk_segmentAccept _ _ g hok
  case next =>
    intro buf g s t _ _ ih hok
    exact ih (recordsOk_flushOpt_segmentAccept _ _ g hok)

/-! ### The demultiplexer (R113) -/

theorem recordsOk_resolveCarry (head : Bytes) {s : State} (f : SlotFree s) (hok : RecordsOk s.outq) :
    RecordsOk (resolveCarry head s).outq := by
  have hparse : RecordsOk (parse (s.carry ++ head) s.carryGap (setCarry [] false s)).outq := recordsOk_parse _ _ hok
  unfold resolveCarry
  dsimp only
  split
  · exact recordsOk_flushSlot (assembly_parse _ _ _ (slotFree_setCarry [] false f)).store hparse
  · split
    · exact recordsOk_raiseEvent _ hparse
    · exact hparse

theorem recordsOk_closeHead (head : Bytes) {s : State} (a : Assembly s) (hok : RecordsOk s.outq) :
    RecordsOk (closeHead head s).outq := by
  unfold closeHead
  split
  case isTrue hcarrying => exact recordsOk_resolveCarry head (a.slotFree hcarrying.1) hok
  case isFalse =>
    split
    case isTrue hactive => exact recordsOk_flushSlot (assembly_appendPend head s a hactive).store hok
    case isFalse =>
      unfold discardHead
      split
      · exact recordsOk_raiseEvent _ hok
      · exact hok

theorem recordsOk_checkFhp (fhp : BitVec 11) {s : State} (hok : RecordsOk s.outq) :
    RecordsOk (checkFhp fhp s).outq := by
  unfold checkFhp
  split
  · exact recordsOk_raiseEvent _ hok
  · exact hok

theorem recordsOk_demux (fhp : BitVec 11) (z : Bytes) {s : State} (a : Assembly s) (hok : RecordsOk s.outq) :
    RecordsOk (demux fhp z s).outq := by
  unfold demux
  split
  · unfold demuxNoHdr
    split
    · exact hok
    · exact recordsOk_parse (s := setCarry [] false s) _ _ hok
  · have hchecked := a.of_same (sameAssembly_checkFhp fhp s)
    exact recordsOk_parse _ _ (recordsOk_closeHead _ hchecked (recordsOk_checkFhp fhp hok))

/-! ### The stages of FRAME and the end of the stream (R94, R106) -/

theorem recordsOk_headerStage (h : FrameHeader) {s : State} (hok : RecordsOk s.outq) :
    RecordsOk (headerStage h s).outq := by
  rw [headerStage_eq]
  exact hok.append (recordsOk_counterRecords h.ctr s)

theorem recordsOk_mpduStage (fhp : BitVec 11) (z : Bytes) {s : State} (a : Assembly s) (hok : RecordsOk s.outq) :
    RecordsOk (mpduStage fhp z s).outq :=
  recordsOk_demux fhp z (a.of_same (by constructor <;> rfl)) (s := recordFhp fhp s) hok

theorem recordsOk_acceptFrame (f : Bytes) {s : State} (a : Assembly s) (hok : RecordsOk s.outq) :
    RecordsOk (acceptFrame f s).outq :=
  recordsOk_mpduStage _ _ (assembly_headerStage _ a) (recordsOk_headerStage _ hok)

theorem recordsOk_packetStage (h : PacketHeader) (rest : Bytes) {s : State} (a : Assembly s) (hok : RecordsOk s.outq) :
    RecordsOk (packetStage h rest s).outq := by
  rw [packetStage_eq_parse]
  exact recordsOk_parse _ _ (recordsOk_closeHead [] a hok)

theorem recordsOk_flushIfActive {s : State} (hwf : Memory.wf s) (hok : RecordsOk s.outq) :
    RecordsOk (flushIfActive s).outq := by
  unfold flushIfActive
  split
  · exact recordsOk_flushSlot hwf hok
  · exact hok

theorem recordsOk_discardCarryAtEnd {s : State} (hok : RecordsOk s.outq) : RecordsOk (discardCarryAtEnd s).outq := by
  unfold discardCarryAtEnd
  split
  · exact recordsOk_raiseEvent _ hok
  · exact hok

theorem recordsOk_endOfStream {s : State} (hwf : Memory.wf s) (hok : RecordsOk s.outq) :
    RecordsOk (endOfStream s).outq :=
  recordsOk_raiseEvent _ (recordsOk_discardCarryAtEnd (recordsOk_flushIfActive hwf hok))

theorem recordsOk_unlessEnded {op : BitVec 4} {work : State → State} {s : State} (hok : RecordsOk s.outq)
    (hwork : RecordsOk (work s).outq) : RecordsOk (unlessEnded op work s).outq := by
  unfold unlessEnded
  split
  · exact recordsOk_raiseEvent _ hok
  · exact hwork

/-! ### Instructions and steps -/

/-- Every instruction completes with OUTQ's PKT records well formed, where CARRY and the slot have their invariants. -/
theorem exec_recordsOk (i : Instr) {s : State} (a : Assembly s) (hok : RecordsOk s.outq) :
    ∃ t, exec i s = .next t ∧ RecordsOk t.outq := by
  cases i with
  | frame rsv arg f => exact ⟨_, rfl, recordsOk_unlessEnded hok (recordsOk_acceptFrame f a hok)⟩
  | tail rsv n =>
    have harm : exec (.tail rsv n) s = execTail rsv n s := rfl
    rw [harm, execTail]
    split
    · exact ⟨_, rfl, recordsOk_raiseEvent _ hok⟩
    · have hwork : RecordsOk (endOfStream (raiseEvent (.truncatedTail n) s)).outq :=
        recordsOk_endOfStream a.store (recordsOk_raiseEvent _ hok)
      exact ⟨_, rfl, recordsOk_unlessEnded hok hwork⟩
  | eos rsv arg => exact ⟨_, rfl, recordsOk_unlessEnded hok (recordsOk_endOfStream a.store hok)⟩
  | cfg rsv keep ign => exact ⟨_, rfl, hok⟩
  | read rsv index ign => exact ⟨_, exec_read rsv index ign s, hok.append (recordsOk_rdata _)⟩
  | reset rsv arg => exact ⟨_, rfl, hok⟩
  | illegal0 rsv arg | illegal6 rsv arg | illegal7 rsv arg | illegal8 rsv arg | illegal9 rsv arg | illegalA rsv arg
  | illegalB rsv arg | illegalC rsv arg | illegalD rsv arg | illegalE rsv arg =>
    exact ⟨_, rfl, recordsOk_raiseEvent _ hok⟩
  | frameHeader version scid unused1 vcid ctr unused5 =>
    exact ⟨_, rfl, recordsOk_unlessEnded hok (recordsOk_headerStage _ hok)⟩
  | mpduNohdr spare zone => exact ⟨_, rfl, recordsOk_unlessEnded hok (recordsOk_mpduStage _ zone a hok)⟩
  | mpduPtr spare fhp zone => exact ⟨_, rfl, recordsOk_unlessEnded hok (recordsOk_mpduStage fhp zone a hok)⟩
  | phFill ver type shf sf cnt lenField rest =>
    exact ⟨_, rfl, recordsOk_unlessEnded hok (recordsOk_packetStage _ rest a hok)⟩
  | phCont ver type shf apid cnt lenField rest | phFirst ver type shf apid cnt lenField rest
  | phLast ver type shf apid cnt lenField rest | phStandalone ver type shf apid cnt lenField rest =>
    exact ⟨_, rfl, recordsOk_unlessEnded hok (recordsOk_packetStage _ rest a hok)⟩

/-- Settles O9: an idle step appends nothing; any other is an instruction on the state whose port has lost it, which has
the same slot, CARRY and OUTQ. -/
theorem everyPktRecordIsWellFormed : Obligations.EveryPktRecordIsWellFormed := by
  unfold Obligations.EveryPktRecordIsWellFormed
  intro s t hs hok hstep
  obtain ⟨-, rfl⟩ | ⟨c, later, i, -, -, hexec⟩ := step_next_cases hstep
  · exact hok
  · have htaken : Assembly { s with port := later } := hs.assembly.of_same (by constructor <;> rfl)
    obtain ⟨u, hu, huok⟩ := exec_recordsOk i htaken hok
    rw [hu] at hexec
    cases hexec
    exact huok

end Sys2Proof.Machine
end

section
/-! The statements of 45_host_commands.md: what CFG writes (R173), and that an illegal word is reported and does nothing
else (R176). -/

namespace Sys2Proof.Machine

/-! ### CFG (R173) -/

/-- CFG writes one element, with no condition on the state (R173). -/
theorem exec_cfg (rsv : BitVec 4) (keep : BitVec 1) (ign : BitVec 23) (s : State) :
    exec (.cfg rsv keep ign) s = .next { s with keepCorrupt := keep = 1#1 } := rfl

/-- Settles O17: the one element CFG writes, at each value of its bit. -/
theorem cfgSetsKeepCorruptOnly : Obligations.CfgSetsKeepCorruptOnly := by
  unfold Obligations.CfgSetsKeepCorruptOnly
  intro rsv ign s
  have hset : decide (1#1 = 1#1) = true := by decide
  have hclear : decide (0#1 = 1#1) = false := by decide
  exact ⟨by rw [exec_cfg, hset], by rw [exec_cfg, hclear]⟩

/-! ### Illegal command words (R67, R176) -/

/-- The command word as a number: OP in its 4 low bits, RSV in the next 4, ARG above them (R67). -/
theorem commandWord_toNat (op rsv : BitVec 4) (arg : BitVec 24) :
    (commandWord op rsv arg).toNat = arg.toNat * 256 + rsv.toNat * 16 + op.toNat := by
  rw [commandWord, toNat_append_eq_add, toNat_append_eq_add]
  omega

theorem commandWord_eq_ofNat (op rsv : BitVec 4) (arg : BitVec 24) :
    commandWord op rsv arg = BitVec.ofNat 32 (arg.toNat * 256 + rsv.toNat * 16 + op.toNat) := by
  rw [← commandWord_toNat, BitVec.ofNat_toNat, BitVec.setWidth_eq]

/-- The report of an illegal word is one record, which holds the word, and nothing else changes (R176). -/
theorem illegalCommand_eq (op rsv : BitVec 4) (arg : BitVec 24) (s : State) :
    illegalCommand op rsv arg s = { s with
      outq := s.outq ++ [.evt (.illegalCmd (BitVec.ofNat 32 (arg.toNat * 256 + rsv.toNat * 16 + op.toNat)))] } := by
  rw [← commandWord_eq_ofNat]
  rfl

/-- A TAIL whose n is out of range is an illegal word, whatever the state (R104, R176). -/
theorem exec_tail_of_illegal {rsv : BitVec 4} {n : BitVec 24} {s : State} (h : n.toNat = 0 ∨ s.frameSize ≤ n.toNat) :
    exec (.tail rsv n) s = .next (illegalCommand 0x2#4 rsv n s) := by
  have harm : exec (.tail rsv n) s = execTail rsv n s := rfl
  have hillegal : n = 0#24 ∨ s.frameSize ≤ n.toNat := h.imp_left BitVec.eq_of_toNat_eq
  rw [harm, execTail, if_pos hillegal]

/-- Settles O19: each of the ten OPs, and TAIL out of range, is the report of its own word. -/
theorem illegalCommandsAreReportedOnly : Obligations.IllegalCommandsAreReportedOnly := by
  unfold Obligations.IllegalCommandsAreReportedOnly
  constructor
  · intro rsv arg s i op hrow
    simp only [List.mem_cons, List.not_mem_nil, or_false, Prod.mk.injEq] at hrow
    obtain ⟨rfl, rfl⟩ | ⟨rfl, rfl⟩ | ⟨rfl, rfl⟩ | ⟨rfl, rfl⟩ | ⟨rfl, rfl⟩ | ⟨rfl, rfl⟩ | ⟨rfl, rfl⟩ | ⟨rfl, rfl⟩ |
      ⟨rfl, rfl⟩ | ⟨rfl, rfl⟩ := hrow
    all_goals exact congrArg Host.Outcome.next (illegalCommand_eq _ rsv arg s)
  · intro rsv n s hrange
    rw [exec_tail_of_illegal hrange]
    exact congrArg Host.Outcome.next (illegalCommand_eq 0x2#4 rsv n s)

end Sys2Proof.Machine
end

section
/-! The statements of 60_exceptions.md: what only CFG and RESET write (R200), what a stream command does after the end
(R191), and the codes of the events (R180). -/

namespace Sys2Proof.Machine

/-! ### FRAME_SIZE, the port and CTRL (R7, R200) -/

/-- FRAME_SIZE, the port and KEEP_CORRUPT are the same in `s` and `t`. -/
structure SameControl (s t : State) : Prop where
  frameSize : t.frameSize = s.frameSize
  port : t.port = s.port
  keepCorrupt : t.keepCorrupt = s.keepCorrupt

theorem SameControl.trans {a b c : State} (h : SameControl a b) (k : SameControl b c) : SameControl a c :=
  ⟨k.frameSize.trans h.frameSize, k.port.trans h.port, k.keepCorrupt.trans h.keepCorrupt⟩

theorem SameReader.sameControl {s t : State} (h : SameReader s t) : SameControl s t :=
  ⟨h.frameSize, h.port, h.keepCorrupt⟩

theorem sameControl_raiseEvent (e : Event) (s : State) : SameControl s (raiseEvent e s) :=
  (sameReader_raiseEvent e s).sameControl

theorem sameControl_headerStage (h : FrameHeader) (s : State) : SameControl s (headerStage h s) := by
  rw [headerStage_eq]
  exact ⟨rfl, rfl, rfl⟩

/-- The M-PDU stage writes LAST_FHP in the Frame Reader, and nothing else of it (R110). -/
theorem sameControl_mpduStage (fhp : BitVec 11) (z : Bytes) (s : State) : SameControl s (mpduStage fhp z s) := by
  have hrecorded : SameControl s (recordFhp fhp s) := ⟨rfl, rfl, rfl⟩
  exact hrecorded.trans (sameReader_mpduStage fhp z s).sameControl

theorem sameControl_acceptFrame (f : Bytes) (s : State) : SameControl s (acceptFrame f s) :=
  (sameControl_headerStage _ s).trans (sameControl_mpduStage _ _ _)

/-- Past the flush and the discard, EndOfStream appends the report and sets ENDED (R106). -/
theorem sameControl_endOfStream (s : State) : SameControl s (endOfStream s) := by
  have hemptied := (sameReader_flushIfActive s).trans (sameReader_discardCarryAtEnd _)
  exact ⟨hemptied.frameSize, hemptied.port, hemptied.keepCorrupt⟩

theorem sameControl_unlessEnded {op : BitVec 4} {work : State → State} {s : State} (h : SameControl s (work s)) :
    SameControl s (unlessEnded op work s) := by
  unfold unlessEnded
  split
  · exact sameControl_raiseEvent _ s
  · exact h

/-- TAIL, in its range or out of it, ends in events and EndOfStream (R104). -/
theorem exec_tail_sameControl (rsv : BitVec 4) (n : BitVec 24) (s : State) :
    ∃ t, exec (.tail rsv n) s = .next t ∧ SameControl s t := by
  by_cases hillegal : n.toNat = 0 ∨ s.frameSize ≤ n.toNat
  · exact ⟨_, exec_tail_of_illegal hillegal, sameControl_raiseEvent _ s⟩
  · have hwork : SameControl s (endOfStream (raiseEvent (.truncatedTail n) s)) :=
      (sameControl_raiseEvent _ s).trans (sameControl_endOfStream _)
    exact ⟨_, exec_tail_of_legal (by omega) (by omega), sameControl_unlessEnded hwork⟩

/-- Every instruction but CFG and RESET completes with CTRL as it was (R200). -/
theorem exec_sameControl (i : Instr) (s : State) (hcfg : ∀ rsv keep ign, i ≠ .cfg rsv keep ign)
    (hreset : ∀ rsv arg, i ≠ .reset rsv arg) : ∃ t, exec i s = .next t ∧ SameControl s t := by
  cases i with
  | frame rsv arg f => exact ⟨_, exec_frame rsv arg f s, sameControl_unlessEnded (sameControl_acceptFrame f s)⟩
  | tail rsv n => exact exec_tail_sameControl rsv n s
  | eos rsv arg => exact ⟨_, rfl, sameControl_unlessEnded (sameControl_endOfStream s)⟩
  | cfg rsv keep ign => exact absurd rfl (hcfg rsv keep ign)
  | read rsv index ign => exact ⟨_, exec_read rsv index ign s, ⟨rfl, rfl, rfl⟩⟩
  | reset rsv arg => exact absurd rfl (hreset rsv arg)
  | illegal0 | illegal6 | illegal7 | illegal8 | illegal9 | illegalA | illegalB | illegalC | illegalD | illegalE =>
    exact ⟨_, rfl, sameControl_raiseEvent _ s⟩
  | frameHeader => exact ⟨_, rfl, sameControl_unlessEnded (sameControl_headerStage _ s)⟩
  | mpduNohdr | mpduPtr => exact ⟨_, rfl, sameControl_unlessEnded (sameControl_mpduStage _ _ s)⟩
  | phFill | phCont | phFirst | phLast | phStandalone =>
    exact ⟨_, rfl, sameControl_unlessEnded (sameReader_packetStage _ _ s).sameControl⟩

/-- Settles O13: CFG and RESET by what they write, and every other instruction by its frame. -/
theorem onlyCfgAndResetWriteCtrl : Obligations.OnlyCfgAndResetWriteCtrl := by
  unfold Obligations.OnlyCfgAndResetWriteCtrl
  intro i s
  by_cases hcfg : ∃ rsv keep ign, i = .cfg rsv keep ign
  · obtain ⟨rsv, keep, ign, rfl⟩ := hcfg
    exact ⟨_, exec_cfg rsv keep ign s, rfl, rfl, fun hne => absurd rfl (hne rsv keep ign)⟩
  by_cases hreset : ∃ rsv arg, i = .reset rsv arg
  · obtain ⟨rsv, arg, rfl⟩ := hreset
    exact ⟨_, rfl, rfl, rfl, fun _ hne => absurd rfl (hne rsv arg)⟩
  obtain ⟨t, hexec, hsame⟩ := exec_sameControl i s (fun rsv keep ign hi => hcfg ⟨rsv, keep, ign, hi⟩)
    (fun rsv arg hi => hreset ⟨rsv, arg, hi⟩)
  exact ⟨t, hexec, hsame.frameSize, hsame.port, fun _ _ => hsame.keepCorrupt⟩

/-! ### Stream commands after the end (R108, R191) -/

/-- Work that is turned away leaves one record, and nothing else changes (R191). -/
theorem unlessEnded_eq_of_ended {op : BitVec 4} {work : State → State} {s : State} (h : s.ended = true) :
    unlessEnded op work s = { s with outq := s.outq ++ [.evt (.cmdAfterEnd op)] } := unlessEnded_of_ended h

/-- Settles O14: each of the three commands is its work unless the stream has ended, TAIL where n is legal. -/
theorem streamCommandsAfterEndChangeNothing : Obligations.StreamCommandsAfterEndChangeNothing := by
  unfold Obligations.StreamCommandsAfterEndChangeNothing
  intro rsv n arg f s hended
  refine ⟨?_, ?_, ?_⟩
  · rw [exec_frame, unlessEnded_eq_of_ended hended]
  · exact congrArg Host.Outcome.next (unlessEnded_eq_of_ended hended)
  · intro hpos hlt
    rw [exec_tail_of_legal hpos hlt, unlessEnded_eq_of_ended hended]

/-! ### Event codes (R180, R185, R188) -/

/-- Every code is an emitted one; the table reserves 0x00, 0x06 and the codes past 0x0C (R180, R186). -/
theorem eventCode_mem_emitted (e : Event) :
    (eventCode e).toNat ∈ [0x01, 0x02, 0x03, 0x04, 0x05, 0x07, 0x08, 0x09, 0x0A, 0x0B, 0x0C] := by
  cases e
  all_goals simp [eventCode]

/-- Settles O16: the codes event by event. -/
theorem eventCodesAreTheStatedOnes : Obligations.EventCodesAreTheStatedOnes := by
  unfold Obligations.EventCodesAreTheStatedOnes
  refine ⟨eventCode_mem_emitted, ?_, ?_, ?_, rfl, rfl, rfl, rfl, rfl⟩
  · intro n m k
    exact ⟨rfl, rfl, rfl⟩
  · intro p a n r sf cnt len
    exact ⟨rfl, rfl, rfl⟩
  · intro a sf cnt len rx x y d c k u v op w
    exact ⟨rfl, rfl, rfl, rfl, rfl⟩

end Sys2Proof.Machine
end

section
/-! The other direction of 30_encoding.md: what the decoder accepts is well formed and encodes to the very input, format by
format; and the words that 95_test_vectors.md writes out. -/

namespace Sys2Proof

/-! ### Command words (R67, R68) -/

/-- FRAME alone has a condition, on its operand, which the length test has settled. -/
theorem wellFormed_of_decodeCommand {n : Nat} {w : Word} {f : Bytes} {i : Instr} (h : decodeCommand n w f = .ok i) :
    i.WellFormed n := by
  obtain ⟨hlen, rfl⟩ := decodeCommand_ok_iff.mp h
  unfold decodeOp
  split
  case h_2 hop =>
    have hframe : opOf w = 0x1#4 := BitVec.eq_of_toNat_eq hop
    rwa [operandLength, if_pos hframe] at hlen
  all_goals trivial

/-! ### The frame header (R73, R74) -/

/-- A byte is its two high bits and its six low ones. -/
theorem extract_two_append_six (b : Byte) : (b.extractLsb' 6 2 ++ b.extractLsb' 0 6 : Byte) = b :=
  (BitVec.extractLsb'_append_extractLsb'_eq_extractLsb' rfl).trans BitVec.extractLsb'_eq_self

/-- The fields of a frame header, with the parts of it that no rule reads (R75), are its 6 bytes. -/
theorem decodeTfh_inverse {n : Nat} {b : Bytes} {i : Instr} (h : decodeTfh b = .ok i) :
    i.WellFormed n ∧ encode i = .tfh b := by
  unfold decodeTfh at h
  split at h
  · next hlen =>
    cases h
    refine ⟨trivial, ?_⟩
    match b, hlen with
    | [b0, b1, b2, b3, b4, b5], _ =>
      have hctr : bytes24 (be24 [b0, b1, b2, b3, b4, b5] 2) = [b2, b3, b4] := bytes24_be24 b2 b3 b4
      simp [encode, decodeFrameHeader, frameHeaderBytes, hctr, extract_two_append_six]
  · cases h

/-! ### The M-PDU word (R77, R79) -/

/-- The two bytes of the header word are its SPARE and FHP. -/
theorem bytes16_spare_fhp {b : Bytes} (hlen : 2 ≤ b.length) :
    bytes16 ((be16 b 0).extractLsb' 11 5 ++ fhpOfWord (be16 b 0)) ++ b.drop 2 = b := by
  match b, hlen with
  | b0 :: b1 :: zone, _ =>
    rw [append_fhpOfWord]
    exact congrArg (· ++ zone) (bytes16_be16 b0 b1)

/-- Of the two rows NOHDR has the FHP that PTR excludes, and either keeps the zone. -/
theorem decodeMpdu_inverse {n : Nat} {b : Bytes} {i : Instr} (h : decodeMpdu n b = .ok i) :
    i.WellFormed n ∧ encode i = .mpdu b := by
  unfold decodeMpdu at h
  split at h
  · next hlen =>
    have hbytes := bytes16_spare_fhp (b := b) (by omega)
    have hzone : (b.drop 2).length = Config.zone n := by
      rw [List.length_drop, hlen, Nat.add_sub_cancel]
    split at h
    · next hfhp =>
      cases h
      rw [hfhp] at hbytes
      exact ⟨hzone, congrArg Encoded.mpdu hbytes⟩
    · next hfhp =>
      cases h
      exact ⟨⟨hfhp, hzone⟩, congrArg Encoded.mpdu hbytes⟩
  · cases h

/-! ### The packet header (R80, R85) -/

/-- The class of a header says which field its row leaves out: APID for fill, SF for the others (R85). -/
theorem decodePh_inverse {n : Nat} (h : PacketHeader) {rest : Bytes} (hfits : RestFits n rest) :
    (decodePh h rest).WellFormed n ∧ encode (decodePh h rest) = .packet (headerBytes h ++ rest) := by
  obtain ⟨ver, type, shf, apid, sf, cnt, lenField⟩ := h
  by_cases hapid : apid = Config.apidFill
  · subst hapid
    rw [Machine.decodePh_fill]
    exact ⟨hfits, rfl⟩
  · have hsf : sf = 0#2 ∨ sf = 1#2 ∨ sf = 2#2 ∨ sf = 3#2 := by bv_omega
    obtain rfl | rfl | rfl | rfl := hsf
    · rw [Machine.decodePh_cont (hapid := hapid)]
      exact ⟨⟨hapid, hfits⟩, rfl⟩
    · rw [Machine.decodePh_first (hapid := hapid)]
      exact ⟨⟨hapid, hfits⟩, rfl⟩
    · rw [Machine.decodePh_last (hapid := hapid)]
      exact ⟨⟨hapid, hfits⟩, rfl⟩
    · rw [Machine.decodePh_standalone (hapid := hapid)]
      exact ⟨⟨hapid, hfits⟩, rfl⟩

theorem decodePacket_inverse {n : Nat} {b : Bytes} {i : Instr} (h : decodePacket n b = .ok i) :
    i.WellFormed n ∧ encode i = .packet b := by
  unfold decodePacket at h
  split at h
  · next hlen =>
    cases h
    obtain ⟨hheader, hbuffer⟩ := hlen
    match b, hheader with
    | b0 :: b1 :: b2 :: b3 :: b4 :: b5 :: rest, _ =>
      have hinverse := decodePh_inverse (parseHeader (b0 :: b1 :: b2 :: b3 :: b4 :: b5 :: rest)) hbuffer
      rwa [headerBytes_parseHeader] at hinverse
  · cases h

/-- Settles O2: each format by the inverse of its decoder. -/
theorem encodeOfDecodeIsTheTransfer : Obligations.EncodeOfDecodeIsTheTransfer := by
  unfold Obligations.EncodeOfDecodeIsTheTransfer
  intro n t i hdec
  cases t with
  | command w operand => exact ⟨wellFormed_of_decodeCommand hdec, encode_of_decodeCommand hdec⟩
  | tfh b => exact decodeTfh_inverse hdec
  | mpdu b => exact decodeMpdu_inverse hdec
  | packet b => exact decodePacket_inverse hdec

/-! ### Words written out -/

/-- A transfer that is the encoding of a well-formed instruction decodes to it. -/
theorem decode_of_encode_eq {n : Nat} {i : Instr} {t : Encoded} (hwf : i.WellFormed n) (henc : encode i = t) :
    decode n t = .ok i := henc ▸ decodeOfEncodeIsTheInstruction n i hwf

/-- Settles O3: each word is the encoding of the instruction it stands for. -/
theorem specWordsDecodeToTheirInstructions : Obligations.SpecWordsDecodeToTheirInstructions := by
  unfold Obligations.SpecWordsDecodeToTheirInstructions
  have hnohdr : Instr.WellFormed 9 (.mpduNohdr 31#5 [0xAB#8]) := rfl
  have hptr : Instr.WellFormed 9 (.mpduPtr 0#5 6#11 [0xAB#8]) := ⟨by decide, rfl⟩
  have hempty : RestFits 32 [] := by decide
  have hfirst : Instr.WellFormed 32 (.phFirst 0#3 1#1 1#1 0x7FE#11 0x3FFF#14 0#16 []) := ⟨by decide, hempty⟩
  have hlast : Instr.WellFormed 32 (.phLast 7#3 0#1 0#1 0x000#11 1#14 0x1234#16 []) := ⟨by decide, hempty⟩
  exact ⟨decode_of_encode_eq trivial rfl, decode_of_encode_eq trivial rfl, decode_of_encode_eq trivial rfl,
    decode_of_encode_eq trivial rfl, decode_of_encode_eq trivial rfl, decode_of_encode_eq trivial rfl,
    decode_of_encode_eq hptr rfl, decode_of_encode_eq hnohdr rfl, decode_of_encode_eq hempty rfl,
    decode_of_encode_eq hfirst rfl, decode_of_encode_eq hlast rfl⟩

end Sys2Proof
end

section
/-! The statements of 70_reset_and_hazards.md: what reset and power-on leave (R210, R212), and how many records a command
appends at most (R223). -/

namespace Sys2Proof.Machine

/-! ### Power-on and RESET (R210, R212) -/

theorem slotFree_powerOn (n : Nat) : SlotFree (State.powerOn n) :=
  ⟨rfl, ⟨rfl, rfl, rfl, rfl, rfl, rfl, rfl, rfl, rfl⟩, rfl⟩

/-- Settles O7: at power-on the slot is free and CARRY empty, and the default FRAME_SIZE is legal. -/
theorem powerOnHasTheInvariants : Obligations.PowerOnHasTheInvariants := by
  unfold Obligations.PowerOnHasTheInvariants
  have hinv : ∀ n : Nat, Config.FrameSizeLegal n → StateInv (State.powerOn n) := fun n hlegal =>
    (slotFree_powerOn n).stateInv hlegal rfl rfl
  exact ⟨hinv, hinv Config.frameSizeDefault (by decide)⟩

theorem exec_reset (rsv : BitVec 4) (arg : BitVec 24) (s : State) :
    exec (.reset rsv arg) s = .next (resetState s) := rfl

/-- RESET frees the slot as power-on does (R210). -/
theorem slotFree_resetState (s : State) : SlotFree (resetState s) :=
  (slotFree_powerOn s.frameSize).of_same (by constructor <;> rfl)

/-- A cleared group table has no group open (R31). -/
theorem groupBit_zero (a : BitVec 11) : groupBit 0#2047 a = false := BitVec.getLsbD_zero

/-- Settles O18: the fields of ResetState, with the slot free and every bit of the group table 0. -/
theorem resetRestoresPowerOnButKeepsOutq : Obligations.ResetRestoresPowerOnButKeepsOutq := by
  unfold Obligations.ResetRestoresPowerOnButKeepsOutq
  intro rsv arg s
  have hslot : SlotEmpty (resetState s) := (slotFree_resetState s).slot
  refine ⟨resetState s, exec_reset rsv arg s, ?_⟩
  simp [hslot, groupBit_zero]

/-! ### How many records an operation appends (R223) -/

/-- `t` has at most `n` records more on OUTQ than `s`. -/
def AppendsAtMost (n : Nat) (s t : State) : Prop := t.outq.length ≤ s.outq.length + n

theorem AppendsAtMost.of_outq_eq {n : Nat} {s t : State} (h : t.outq = s.outq) : AppendsAtMost n s t :=
  (congrArg List.length h).le.trans (Nat.le_add_right _ n)

theorem AppendsAtMost.trans {m n : Nat} {a b c : State} (h : AppendsAtMost m a b) (k : AppendsAtMost n b c) :
    AppendsAtMost (m + n) a c := by
  unfold AppendsAtMost at *
  omega

theorem AppendsAtMost.mono {m n : Nat} {s t : State} (h : AppendsAtMost m s t) (hmn : m ≤ n) : AppendsAtMost n s t :=
  Nat.le_trans h (Nat.add_le_add_left hmn _)

theorem appendsAtMost_raiseEvent (e : Event) (s : State) : AppendsAtMost 1 s (raiseEvent e s) := by
  simp [AppendsAtMost]

/-- A flush appends a size event, a CRC event and a PKT record at most (R154). -/
theorem appendsAtMost_flush (p : Packet) (s : State) : AppendsAtMost 3 s (flush p s) := by
  have hlen := length_flushRecords_le p s.keepCorrupt
  rw [flush_eq_absorb, AppendsAtMost, absorb, List.length_append]
  omega

theorem appendsAtMost_flushSlot (s : State) : AppendsAtMost 3 s (flushSlot s) :=
  appendsAtMost_flush (slotPacket s) (releaseSlot s)

/-! ### The parser: 3 records for each 6 bytes of a buffer -/

/-- SegmentAccept reports an orphan, for which there is no packet value, or nothing (R138). -/
theorem appendsAtMost_segmentAccept (h : PacketHeader) (rest : Bytes) (fd : Bool) (s : State) :
    AppendsAtMost 1 s (segmentAccept h rest fd s).2 := by
  obtain ⟨he, -⟩ | ⟨he, -⟩ | ⟨he, -⟩ | ⟨he, -⟩ | ⟨he, -⟩ := segmentAccept_cases h rest fd s <;> rw [he]
  case inr.inl => exact appendsAtMost_raiseEvent _ s
  all_goals exact .of_outq_eq rfl

/-- A header whose packet ends inside the buffer: an orphan event, or the records of a flush, never both. -/
theorem appendsAtMost_flushOpt_segmentAccept (h : PacketHeader) (rest : Bytes) (fd : Bool) (s : State) :
    AppendsAtMost 3 s (flushOpt (segmentAccept h rest fd s).1 (segmentAccept h rest fd s).2) := by
  obtain ⟨he, -⟩ | ⟨he, -⟩ | ⟨he, -⟩ | ⟨he, -⟩ | ⟨he, -⟩ := segmentAccept_cases h rest fd s <;> rw [he]
  case inl => exact .of_outq_eq rfl
  case inr.inl => exact (appendsAtMost_raiseEvent _ s).mono (by omega)
  case inr.inr.inl => exact appendsAtMost_flush _ s
  all_goals exact appendsAtMost_flush _ (setGroup _ _ s)

/-- Each header the parser takes has 6 bytes of the buffer, and appends at most 3 records. -/
theorem appendsAtMost_parse (buf : Bytes) (g : Bool) (s : State) :
    AppendsAtMost (3 * (buf.length / 6)) s (parse buf g s) := by
  refine parse_induction (P := fun buf _ s t => AppendsAtMost (3 * (buf.length / 6)) s t) ?short ?stop ?next buf g s
  case short =>
    intro buf g s _
    exact .of_outq_eq rfl
  case stop =>
    intro buf g s hlen _
    have hactive : AppendsAtMost 0 (segmentAccept (frontHeader buf) (afterHeader buf) g s).2
        (setCarry [] false (makeActiveOpt (segmentAccept (frontHeader buf) (afterHeader buf) g s).1
          (segmentAccept (frontHeader buf) (afterHeader buf) g s).2)) := .of_outq_eq (makeActiveOpt_outq _ _)
    exact ((appendsAtMost_segmentAccept _ _ g s).trans hactive).mono (by omega)
  case next =>
    intro buf g s t hlen _ ih
    have hafter := length_afterPacket buf
    exact ((appendsAtMost_flushOpt_segmentAccept _ _ g s).trans ih).mono (by omega)

/-! ### The demultiplexer -/

/-- Case A1 parses CARRY and the head, and then flushes the slot or discards the residue. -/
theorem appendsAtMost_resolveCarry (head : Bytes) (s : State) :
    AppendsAtMost (3 * ((s.carry.length + head.length) / 6) + 3) s (resolveCarry head s) := by
  have hparse : AppendsAtMost (3 * ((s.carry ++ head).length / 6)) s
      (parse (s.carry ++ head) s.carryGap (setCarry [] false s)) := appendsAtMost_parse _ _ (setCarry [] false s)
  rw [List.length_append] at hparse
  unfold resolveCarry
  dsimp only
  split
  · exact hparse.trans (appendsAtMost_flushSlot _)
  · split
    · exact (hparse.trans (appendsAtMost_raiseEvent _ _)).mono (by omega)
    · exact hparse.mono (by omega)

theorem appendsAtMost_closeHead (head : Bytes) (s : State) :
    AppendsAtMost (3 * ((s.carry.length + head.length) / 6) + 3) s (closeHead head s) := by
  unfold closeHead
  split
  · exact appendsAtMost_resolveCarry head s
  · split
    · have hflush : AppendsAtMost 3 s (completeActive head s) := appendsAtMost_flushSlot (appendPend head s)
      exact hflush.mono (by omega)
    · unfold discardHead
      split
      · exact (appendsAtMost_raiseEvent _ s).mono (by omega)
      · exact .of_outq_eq rfl

theorem appendsAtMost_checkFhp (fhp : BitVec 11) (s : State) : AppendsAtMost 1 s (checkFhp fhp s) := by
  unfold checkFhp
  split
  · exact appendsAtMost_raiseEvent _ s
  · exact .of_outq_eq rfl

/-- Head and tail have no byte of the zone in common. -/
theorem length_headOf_add_tailOf_le (n : Nat) (fhp : BitVec 11) (z : Bytes) :
    (headOf fhp z).length + (tailOf n fhp z).length ≤ z.length := by
  simp only [headOf, tailOf, length_slice]
  omega

/-- The bytes of CARRY and the zone go to the two parses; beside them are the out-of-range event and what closes the head. -/
theorem appendsAtMost_demux (fhp : BitVec 11) (z : Bytes) (s : State) :
    AppendsAtMost (3 * ((s.carry.length + z.length) / 6) + 4) s (demux fhp z s) := by
  unfold demux
  split
  · unfold demuxNoHdr
    split
    · exact .of_outq_eq rfl
    · have hparse : AppendsAtMost (3 * ((s.carry ++ z).length / 6)) s
          (parse (s.carry ++ z) s.carryGap (setCarry [] false s)) := appendsAtMost_parse _ _ (setCarry [] false s)
      rw [List.length_append] at hparse
      exact hparse.mono (by omega)
  · have hclose := appendsAtMost_closeHead (headOf fhp z) (checkFhp fhp s)
    rw [(sameAssembly_checkFhp fhp s).carry] at hclose
    have hparts := length_headOf_add_tailOf_le s.frameSize fhp z
    exact (((appendsAtMost_checkFhp fhp s).trans hclose).trans (appendsAtMost_parse _ false _)).mono (by omega)

/-! ### The commands of the stream (R94, R104, R105) -/

theorem appendsAtMost_headerStage (h : FrameHeader) (s : State) : AppendsAtMost 1 s (headerStage h s) := by
  rw [headerStage_eq, AppendsAtMost, List.length_append]
  exact Nat.add_le_add_left (length_counterRecords_le h.ctr s) _

theorem appendsAtMost_acceptFrame {f : Bytes} {s : State} (hlen : f.length = s.frameSize) :
    AppendsAtMost (3 * ((s.carry.length + Config.zone s.frameSize) / 6) + 5) s (acceptFrame f s) := by
  have hzone : (zoneOf s.frameSize f).length = Config.zone s.frameSize := by
    rw [zoneOf, length_slice, hlen, Nat.min_self]
  have hcarry : (headerStage (decodeFrameHeader f) s).carry = s.carry := by rw [headerStage_eq]
  have hmpdu : AppendsAtMost _ (headerStage (decodeFrameHeader f) s) (acceptFrame f s) :=
    appendsAtMost_demux (fhpDecode f) (zoneOf s.frameSize f) (recordFhp _ (headerStage (decodeFrameHeader f) s))
  rw [recordFhp_carry, hcarry, hzone] at hmpdu
  exact ((appendsAtMost_headerStage _ s).trans hmpdu).mono (by omega)

/-- EndOfStream flushes the slot, discards CARRY and reports, each at most once (R106, R107). -/
theorem appendsAtMost_endOfStream (s : State) : AppendsAtMost 5 s (endOfStream s) := by
  have hflush : AppendsAtMost 3 s (flushIfActive s) := by
    unfold flushIfActive
    split
    · exact appendsAtMost_flushSlot s
    · exact .of_outq_eq rfl
  have hdiscard : AppendsAtMost 1 (flushIfActive s) (discardCarryAtEnd (flushIfActive s)) := by
    unfold discardCarryAtEnd
    split
    · exact appendsAtMost_raiseEvent _ _
    · exact .of_outq_eq rfl
  exact (hflush.trans hdiscard).trans (appendsAtMost_raiseEvent _ _)

/-- A command turned away after the end appends one record (R108). -/
theorem appendsAtMost_unlessEnded {n : Nat} {op : BitVec 4} {work : State → State} {s : State} (hn : 1 ≤ n)
    (h : AppendsAtMost n s (work s)) : AppendsAtMost n s (unlessEnded op work s) := by
  unfold unlessEnded
  split
  · exact (appendsAtMost_raiseEvent _ s).mono hn
  · exact h

theorem exec_frame_appendsAtMost (rsv : BitVec 4) (arg : BitVec 24) {f : Bytes} {s : State} (hlen : f.length = s.frameSize)
    (hcarry : s.carry.length ≤ 5) :
    ∃ t, exec (.frame rsv arg f) s = .next t ∧
      AppendsAtMost (3 * ((Config.zone s.frameSize + 5) / 6 + 2) + 6) s t :=
  ⟨_, exec_frame rsv arg f s,
    appendsAtMost_unlessEnded (by omega) ((appendsAtMost_acceptFrame hlen).mono (by omega))⟩

theorem exec_tail_appendsAtMost (rsv : BitVec 4) (n : BitVec 24) (s : State) :
    ∃ t, exec (.tail rsv n) s = .next t ∧ AppendsAtMost 6 s t := by
  by_cases hillegal : n.toNat = 0 ∨ s.frameSize ≤ n.toNat
  · have hreport : AppendsAtMost 1 s (illegalCommand 0x2#4 rsv n s) := appendsAtMost_raiseEvent _ s
    exact ⟨_, exec_tail_of_illegal hillegal, hreport.mono (by omega)⟩
  · have hend : AppendsAtMost 6 s (endOfStream (raiseEvent (.truncatedTail n) s)) :=
      (appendsAtMost_raiseEvent _ s).trans (appendsAtMost_endOfStream _)
    exact ⟨_, exec_tail_of_legal (by omega) (by omega), appendsAtMost_unlessEnded (by omega) hend⟩

theorem exec_eos_appendsAtMost (rsv : BitVec 4) (arg : BitVec 24) (s : State) :
    ∃ t, exec (.eos rsv arg) s = .next t ∧ AppendsAtMost 6 s t :=
  ⟨_, rfl, appendsAtMost_unlessEnded (by omega) ((appendsAtMost_endOfStream s).mono (by omega))⟩

/-! ### Exactly one record (R174, R176, R191) -/

theorem length_outq_raiseEvent (e : Event) (s : State) : (raiseEvent e s).outq.length = s.outq.length + 1 := by
  rw [raiseEvent_outq, List.length_append, List.length_singleton]

/-- An illegal OP is the report of its word. -/
theorem exec_illegal_appends_one {rsv : BitVec 4} {arg : BitVec 24} {i : Instr} (s : State)
    (hi : i ∈ [Instr.illegal0 rsv arg, .illegal6 rsv arg, .illegal7 rsv arg, .illegal8 rsv arg, .illegal9 rsv arg,
      .illegalA rsv arg, .illegalB rsv arg, .illegalC rsv arg, .illegalD rsv arg, .illegalE rsv arg]) :
    ∃ t, exec i s = .next t ∧ t.outq.length = s.outq.length + 1 := by
  simp only [List.mem_cons, List.not_mem_nil, or_false] at hi
  obtain rfl | rfl | rfl | rfl | rfl | rfl | rfl | rfl | rfl | rfl := hi
  all_goals exact ⟨_, rfl, length_outq_raiseEvent _ s⟩

/-- After the end TAIL appends one record whatever its n: the report of an illegal word, or that the end has been. -/
theorem exec_tail_of_ended_appends_one (rsv : BitVec 4) (n : BitVec 24) {s : State} (hended : s.ended = true) :
    ∃ t, exec (.tail rsv n) s = .next t ∧ t.outq.length = s.outq.length + 1 := by
  by_cases hillegal : n.toNat = 0 ∨ s.frameSize ≤ n.toNat
  · exact ⟨_, exec_tail_of_illegal hillegal, length_outq_raiseEvent _ s⟩
  · rw [exec_tail_of_legal (by omega) (by omega), unlessEnded_of_ended hended]
    exact ⟨_, rfl, length_outq_raiseEvent _ s⟩

/-- Settles O12: the bounds of the stream commands, and the exact counts of the commands that append one record or none. -/
theorem recordsPerCommandAreBounded : Obligations.RecordsPerCommandAreBounded := by
  unfold Obligations.RecordsPerCommandAreBounded
  refine ⟨?frame, ?finish, ?other, ?ended⟩
  case frame =>
    intro rsv arg f s hlen hcarry
    exact exec_frame_appendsAtMost rsv arg hlen hcarry
  case finish =>
    intro rsv n arg s
    exact ⟨exec_tail_appendsAtMost rsv n s, exec_eos_appendsAtMost rsv arg s⟩
  case other =>
    intro rsv arg keep k index j s
    exact ⟨⟨_, exec_read rsv index j s, List.length_append⟩, ⟨_, exec_cfg rsv keep k s, rfl⟩,
      ⟨_, exec_reset rsv arg s, rfl⟩, fun i hi => exec_illegal_appends_one s hi⟩
  case ended =>
    intro rsv arg f s hended
    refine ⟨?_, exec_tail_of_ended_appends_one rsv arg hended, ?_⟩
    · rw [exec_frame, unlessEnded_of_ended hended]
      exact ⟨_, rfl, length_outq_raiseEvent _ s⟩
    · have heos : exec (.eos rsv arg) s = .next (raiseEvent (.cmdAfterEnd 0x3#4) s) :=
        congrArg Host.Outcome.next (unlessEnded_of_ended hended)
      exact ⟨_, heos, length_outq_raiseEvent _ s⟩

end Sys2Proof.Machine
end

section
/-! The values 43_crc16.md states of the recurrence (R146). -/

namespace Sys2Proof.Machine

/-- Settles O59: the corner cases and the check value, by running the recurrence. -/
theorem crcHasTheStatedValues : Obligations.CrcHasTheStatedValues := by
  unfold Obligations.CrcHasTheStatedValues
  exact ⟨rfl, by decide, by decide, by decide⟩

end Sys2Proof.Machine
end
